-- ==== Sys2Proof/Word.lean ====
section
/-! DEFINITION. The word of the command interface (spec/30_encoding.md R70, R71). -/

namespace Sys2Proof

/-- One command word or one response word: 32 bits, bit 0 the least significant (R10, R70, R71). -/
abbrev Word := BitVec 32

end Sys2Proof
end

