-- ==== Sys2Proof/Syntax.lean ====
section
/-! DEFINITION. The commands of IRRX-CORE, one constructor per row of spec/opcode_table.json
(spec/30_encoding.md R72, R73). -/

namespace Sys2Proof

/-- One command. Every operand is an unsigned field of the width the encoding gives it (R73). The two rows
RESERVED of the table are commands of the word level only: their words spell no command of R72 and answer
STATUS = ILLEGAL (spec/44_control.md R214). -/
inductive Instr where
  /-- OP 0x0, R210. -/
  | nop
  /-- OP 0x1, R211: `ivl` is the requested clear-buffer interval in µs. -/
  | init (ivl : BitVec 24)
  /-- OP 0x2, R100: `dt` is the number of edge ticks since the previous edge. -/
  | edge (dt : BitVec 16)
  /-- OP 0x3, R140. -/
  | tick
  /-- OP 0x4, R160. -/
  | poll
  /-- OP 0x5, R192. -/
  | disable (sys cmd : BitVec 8)
  /-- OP 0x6, R193. -/
  | enable (sys cmd : BitVec 8)
  /-- OP 0x7, R194. -/
  | contains (sys cmd : BitVec 8)
  /-- OP 0x8, R169. -/
  | readFrame
  /-- OP 0x9, R213. -/
  | readStatus
  /-- The table's first RESERVED row: a word of opcode 0xA or 0xB, `rest` its bits 27:0 (R75, R214). -/
  | reservedAB (op : BitVec 4) (rest : BitVec 28)
  /-- The table's second RESERVED row: a word of opcode 0xC to 0xF, `rest` its bits 27:0 (R75, R214). -/
  | reservedCF (op : BitVec 4) (rest : BitVec 28)
  deriving DecidableEq, Repr

end Sys2Proof
end

