-- ==== Sys2Proof/WellFormed.lean ====
section
/-! DEFINITION. Which terms of `Instr` stand for a word. The operand widths of R73 are the types' own, so only the
opcode of a reserved word needs a check (spec/30_encoding.md R75). -/

namespace Sys2Proof

/-- `i` stands for a 32-bit word: every command of R72 does; a reserved word's opcode lies in its row. -/
def Instr.wf : Instr → Bool
  | .nop => true
  | .init _ => true
  | .edge _ => true
  | .tick => true
  | .poll => true
  | .disable _ _ => true
  | .enable _ _ => true
  | .contains _ _ => true
  | .readFrame => true
  | .readStatus => true
  | .reservedAB op _ => decide (op = 0xA#4 ∨ op = 0xB#4)
  | .reservedCF op _ => decide (0xC ≤ op.toNat)

/-- `i` is one of the ten commands of R72, not a reserved word. -/
def Instr.isCommand : Instr → Bool
  | .nop => true
  | .init _ => true
  | .edge _ => true
  | .tick => true
  | .poll => true
  | .disable _ _ => true
  | .enable _ _ => true
  | .contains _ _ => true
  | .readFrame => true
  | .readStatus => true
  | .reservedAB _ _ => false
  | .reservedCF _ _ => false

end Sys2Proof
end

