-- ==== Sys2Proof/Decode.lean ====
section
/-! DEFINITION. The command word read and written (spec/30_encoding.md R70 to R76, R85), and the opcode table as
mask and pattern rows (spec/opcode_table.json). -/

namespace Sys2Proof

/-- OP = word[31:28] (R70). -/
def opOf (w : Word) : BitVec 4 := w.extractLsb' 28 4

/-- RSV = word[27:24] (R70). -/
def rsvOf (w : Word) : BitVec 4 := w.extractLsb' 24 4

/-- OPD = word[23:0] (R70), also IVL (R73). -/
def opdOf (w : Word) : BitVec 24 := w.extractLsb' 0 24

/-- OPD[23:16], reserved in EDGE, DISABLE, ENABLE and CONTAINS (R72, R74). -/
def opdHighOf (w : Word) : BitVec 8 := w.extractLsb' 16 8

/-- DT = word[15:0] (R73). -/
def dtOf (w : Word) : BitVec 16 := w.extractLsb' 0 16

/-- SYS = word[15:8] (R73). -/
def sysOf (w : Word) : BitVec 8 := w.extractLsb' 8 8

/-- CMD = word[7:0] (R73). -/
def cmdOf (w : Word) : BitVec 8 := w.extractLsb' 0 8

/-- Bits 27:0 of a reserved word. -/
def restOf (w : Word) : BitVec 28 := w.extractLsb' 0 28

/-- Why a word of a defined opcode spells no command (R74). -/
inductive Illegal where
  /-- RSV is not 0. -/
  | reservedField
  /-- A reserved operand bit is set. -/
  | operandBits
  deriving DecidableEq, Repr

/-- What a word decodes to: a row of the opcode table, or nothing (R85). -/
inductive Decoded where
  | command (i : Instr)
  | illegal (why : Illegal)
  deriving DecidableEq, Repr

/-- The commands with OPD = 0 (R74). -/
def decodePlain (w : Word) (i : Instr) : Decoded :=
  if rsvOf w ≠ 0 then .illegal .reservedField
  else if opdOf w ≠ 0 then .illegal .operandBits
  else .command i

/-- The commands with OPD[23:16] = 0 (R74). -/
def decodeNarrow (w : Word) (i : Instr) : Decoded :=
  if rsvOf w ≠ 0 then .illegal .reservedField
  else if opdHighOf w ≠ 0 then .illegal .operandBits
  else .command i

/-- INIT, which has no reserved operand bits (R74). -/
def decodeWide (w : Word) (i : Instr) : Decoded :=
  if rsvOf w ≠ 0 then .illegal .reservedField else .command i

/-- R85: every word is the one row it matches, or it is illegal. OP alone selects the row (R70). -/
def decode (w : Word) : Decoded :=
  match (opOf w).toNat with
  | 0 => decodePlain w .nop
  | 1 => decodeWide w (.init (opdOf w))
  | 2 => decodeNarrow w (.edge (dtOf w))
  | 3 => decodePlain w .tick
  | 4 => decodePlain w .poll
  | 5 => decodeNarrow w (.disable (sysOf w) (cmdOf w))
  | 6 => decodeNarrow w (.enable (sysOf w) (cmdOf w))
  | 7 => decodeNarrow w (.contains (sysOf w) (cmdOf w))
  | 8 => decodePlain w .readFrame
  | 9 => decodePlain w .readStatus
  | 10 => .command (.reservedAB (opOf w) (restOf w))
  | 11 => .command (.reservedAB (opOf w) (restOf w))
  | _ => .command (.reservedCF (opOf w) (restOf w))

/-- A word of format CMD: OP, RSV = 0, OPD (R70). -/
def commandWord (op : BitVec 4) (opd : BitVec 24) : Word := op ++ (0#4 ++ opd)

/-- The OPD of a registry command: {0, SYS, CMD} (R72). -/
def pairOpd (sys cmd : BitVec 8) : BitVec 24 := 0#8 ++ (sys ++ cmd)

/-- The word of a command (R72, R83). -/
def encode : Instr → Word
  | .nop => commandWord 0x0#4 0
  | .init ivl => commandWord 0x1#4 ivl
  | .edge dt => commandWord 0x2#4 (0#8 ++ dt)
  | .tick => commandWord 0x3#4 0
  | .poll => commandWord 0x4#4 0
  | .disable sys cmd => commandWord 0x5#4 (pairOpd sys cmd)
  | .enable sys cmd => commandWord 0x6#4 (pairOpd sys cmd)
  | .contains sys cmd => commandWord 0x7#4 (pairOpd sys cmd)
  | .readFrame => commandWord 0x8#4 0
  | .readStatus => commandWord 0x9#4 0
  | .reservedAB op rest => op ++ rest
  | .reservedCF op rest => op ++ rest

/-- One row of spec/opcode_table.json. -/
structure OpcodeRow where
  mnemonic : String
  mask : Word
  pattern : Word
  deriving DecidableEq, Repr

/-- The ten command rows of spec/opcode_table.json, in its order. -/
def commandRows : List OpcodeRow :=
  [⟨"NOP", 0xFFFFFFFF#32, 0x00000000#32⟩, ⟨"INIT", 0xFF000000#32, 0x10000000#32⟩,
   ⟨"EDGE", 0xFFFF0000#32, 0x20000000#32⟩, ⟨"TICK", 0xFFFFFFFF#32, 0x30000000#32⟩,
   ⟨"POLL", 0xFFFFFFFF#32, 0x40000000#32⟩, ⟨"DISABLE", 0xFFFF0000#32, 0x50000000#32⟩,
   ⟨"ENABLE", 0xFFFF0000#32, 0x60000000#32⟩, ⟨"CONTAINS", 0xFFFF0000#32, 0x70000000#32⟩,
   ⟨"READ_FRAME", 0xFFFFFFFF#32, 0x80000000#32⟩, ⟨"READ_STATUS", 0xFFFFFFFF#32, 0x90000000#32⟩]

/-- The two RESERVED rows of spec/opcode_table.json. -/
def reservedRows : List OpcodeRow :=
  [⟨"RESERVED", 0xE0000000#32, 0xA0000000#32⟩, ⟨"RESERVED", 0xC0000000#32, 0xC0000000#32⟩]

/-- The word agrees with the row's fixed bits (R74). -/
def OpcodeRow.admits (r : OpcodeRow) (w : Word) : Bool := decide (w &&& r.mask = r.pattern)

/-- What the decoder reads from an instruction whose bits are `w`, `nbits` of them given by the table; the bits
above are 0. Every command is one 32-bit word (R70). -/
def decodeTableWord (nbits w : Nat) : Option Instr :=
  match decode (BitVec.ofNat 32 (w % 2 ^ nbits)) with
  | .command i => some i
  | .illegal _ => none

end Sys2Proof
end

