-- ==== Sys2Proof/Config.lean ====
section
/-! DEFINITION. What a build of IRRX-CORE fixes: the normative parameters of spec/00_scope.md R6 and R8,
the build parameters of R7 (taken as an argument of the model, `Build`), the constraints of R9, and the
one free value of the model. -/

namespace Sys2Proof

namespace Config

/-- BB_CAP, the Bit Buffer's capacity in entries (R6). -/
abbrev bbCap : Nat := 36
/-- SYS_W, the systemCode width in bits (R6). -/
abbrev sysW : Nat := 4
/-- ADDR_W, the address width in bits (R6). -/
abbrev addrW : Nat := 6
/-- CMD_W, the command width in bits (R6). -/
abbrev cmdW : Nat := 8
/-- First buffer entry of the systemCode field (R53). -/
abbrev sysBase : Nat := 0
/-- First buffer entry of the address field (R53). -/
abbrev addrBase : Nat := 8
/-- First buffer entry of the command field (R53). -/
abbrev cmdBase : Nat := 20
/-- PRE_H1 = 2·PRE_M1, the first preamble milestone in half-intervals (R6, R8). -/
abbrev preH1 : Nat := 40
/-- PRE_H2 = 2·PRE_M2, the second preamble milestone in half-intervals (R6, R8). -/
abbrev preH2 : Nat := 44
/-- PRE_H3 = 2·PRE_M3, the third preamble milestone in half-intervals (R6, R8). -/
abbrev preH3 : Nat := 60
/-- NOM_LEAD_MARK_US (R6). -/
abbrev nomLeadMarkUs : Nat := 3380
/-- NOM_LEAD_GAP_US (R6). -/
abbrev nomLeadGapUs : Nat := 1690
/-- NOM_SHORT_US (R6). -/
abbrev nomShortUs : Nat := 420
/-- NOM_LONG_US (R6). -/
abbrev nomLongUs : Nat := 1270
/-- NOM_FINAL_US (R6). -/
abbrev nomFinalUs : Nat := 420
/-- TOL_US, the symmetric tolerance of every window (R6). -/
abbrev tolUs : Nat := 256
/-- TIMEOUT_TICKS, the watchdog ticks without an edge that abort a capture (R6). -/
abbrev timeoutTicks : Nat := 3
/-- CLR_FLOOR_US, the minimum clear-buffer interval (R6). -/
abbrev clrFloorUs : Nat := 83000
/-- CLR_DEFAULT_US, the default clear-buffer interval (R6). -/
abbrev clrDefaultUs : Nat := 83000

/-- FREE VALUE (notes/assumptions/5.md): what the 6-bit `pre_cnt` holds after an EDGE accepted in phase
Preamble at `pre_cnt` = 63, where the sum 64 does not fit. R11 says that the rules never write such a value and
R20 admits only 0..60, so the spec states no result. Applied to the `dt` of that EDGE. -/
opaque preCntOverflow : BitVec 16 → BitVec 6

end Config

/-- The build parameters the source leaves open (R7): each machine carries its own, no command writes them. -/
structure Build where
  /-- TICK_US: µs per edge tick, the unit of the EDGE operand. -/
  tickUs : Nat
  /-- TOVF_US: µs per watchdog tick (OPEN in the spec, D20). -/
  tovfUs : Nat
  /-- REG_DEPTH: the registry's capacity in pairs. -/
  regDepth : Nat
  deriving DecidableEq, Repr

/-- Each parameter of R7 is at least 1. -/
abbrev Build.wf (b : Build) : Prop := 1 ≤ b.tickUs ∧ 1 ≤ b.tovfUs ∧ 1 ≤ b.regDepth

/-- R9 (a): the SHORT and LONG windows are disjoint. -/
abbrev Build.windowsDisjoint (_ : Build) : Prop :=
  Config.nomShortUs + Config.tolUs < Config.nomLongUs - Config.tolUs

/-- R9 (b): (TIMEOUT_TICKS − 1)·TOVF_US exceeds the longest accepted interval. The block checks neither (D35). -/
abbrev Build.watchdogSlowEnough (b : Build) : Prop :=
  Config.nomLeadMarkUs + Config.tolUs < (Config.timeoutTicks - 1) * b.tovfUs

/-- R9: a well-configured build. -/
abbrev Build.wellConfigured (b : Build) : Prop := b.windowsDisjoint ∧ b.watchdogSlowEnough

/-- The build `State.reset` stands for: TICK_US = 128 and REG_DEPTH = 8 are the reference values of R7;
TOVF_US has none and 2048 is the value of spec/95_test_vectors.md section 0
(DESIGN CHOICE, notes/assumptions/2.md). -/
def Build.reference : Build := { tickUs := 128, tovfUs := 2048, regDepth := 8 }

end Sys2Proof
end

