-- ==== Sys2Proof/Machine/Timing.lean ====
section
/-! DEFINITION. The arithmetic of time: the window test, the clear interval in watchdog ticks, and the edge counts
an adapter delivers (spec/40_acquisition.md R104, spec/44_control.md R212, spec/70_reset_and_hazards.md R264). -/

namespace Sys2Proof.Machine

/-- R104: `dt` edge ticks of `tickUs` µs lie in the closed window of `TOL_US` around `n` µs. -/
def inWin (tickUs : Nat) (dt : BitVec 16) (n : Nat) : Bool :=
  decide (n - Config.tolUs ≤ dt.toNat * tickUs ∧ dt.toNat * tickUs ≤ n + Config.tolUs)

/-- ceil(a / b), the least q with q·b ≥ a, for b ≥ 1 (R11). -/
def ceilDiv (a b : Nat) : Nat := (a + b - 1) / b

/-- R212 ClrTicks: the requested interval raised to the floor, in watchdog ticks of `tovfUs` µs, rounded up. -/
def clrTicksFor (tovfUs ivl : Nat) : Nat := max 1 (ceilDiv (max ivl Config.clrFloorUs) tovfUs)

/-- R264 (1): the EDGE operand an adapter delivers for an elapsed count: saturated, not wrapped (D29). The block
itself does not call it. -/
def adapterDt (elapsed : Nat) : BitVec 16 := BitVec.ofNat 16 (min elapsed 65535)

end Sys2Proof.Machine
end

