-- ==== Sys2Proof/Machine/State.lean ====
section
/-! DEFINITION. The state of IRRX-CORE (spec/10_state.md R20), the two interface fields of the model, the reasons a
step can stop, and power-on reset (spec/70_reset_and_hazards.md R260). -/

namespace Sys2Proof.Machine

/-- ProtocolPhase, the value of the 4-bit register `phase` (R21, R78). Codes 9..15 are never held. -/
inductive Phase where
  | idle | leadingPulse | leadingSpace | preamble | systemCodeField | addressField | commandField | finalPulse
  | cooldown
  deriving DecidableEq, Repr

/-- IntervalClass, internal to EDGE (R79). -/
inductive IntervalClass where
  | short | long | leadingMark | leadingGap | finalMark | outOfTolerance
  deriving DecidableEq, Repr

/-- The STATUS of a response (R77). -/
inductive Status where
  | ok | regFull | illegal | faulted | notConfigured
  deriving DecidableEq, Repr

/-- The two conditions that enter the faulted state (R234, R235). -/
inductive FaultCause where
  /-- POLL found `frame_ready` = 1 with `bb_len` ≠ 36 (R234). -/
  | malformedFrameReady
  /-- An append found `bb_len` ≥ 36 (R235). -/
  | bufferOverrun
  deriving DecidableEq, Repr

/-- Every error and refusal cause of the block (R230). -/
inductive Condition where
  | toleranceReject | timeout | registryFull | malformedFrameReady | bufferOverrun | illegal | notConfigured
  deriving DecidableEq, Repr

/-- One registry slot: `reg_valid[k]` and `reg_key[k]` = {system_code, command} (R31, R52). -/
structure Slot where
  valid : Bool
  key : BitVec 16
  deriving DecidableEq, Repr

/-- What the environment presents to the block, one at a time, in one total order (R58): a command word, or the
power-on reset, which is no command (R260). -/
inductive Stimulus where
  | command (w : Word)
  | powerOnReset
  deriving DecidableEq, Repr

/-- The machine. The fields down to `faultCode` are the registers of R20 and nothing else; `tickUs`, `tovfUs` (and the
length of `reg`, REG_DEPTH) are the build parameters of R7, which nothing writes; `inbox` and `resp` are the
command interface (notes/assumptions/1.md). -/
structure State where
  /-- `phase`, 4 bits (R21). -/
  phase : Phase
  /-- `pre_cnt`, accepted preamble half-intervals (R22). -/
  preCnt : BitVec 6
  /-- `bb_len`, the index of the next entry to append (R23). -/
  bbLen : BitVec 6
  /-- `bb[0..35]` (R24, R51). -/
  bb : Vector Bool 36
  /-- `frame_ready` (R25). -/
  frameReady : Bool
  /-- `idle_ticks` (R26). -/
  idleTicks : BitVec 2
  /-- `clr_ticks` (R27). -/
  clrTicks : BitVec 24
  /-- `clear_req` (R28). -/
  clearReq : Bool
  /-- `avail` (R29). -/
  avail : Bool
  /-- `res_sys` (R30). -/
  resSys : BitVec 8
  /-- `res_addr` (R30). -/
  resAddr : BitVec 8
  /-- `res_cmd` (R30). -/
  resCmd : BitVec 8
  /-- `reg_valid[k]`, `reg_key[k]` for k < REG_DEPTH; the list's length is REG_DEPTH (R31). -/
  reg : List Slot
  /-- `configured` (R32). -/
  configured : Bool
  /-- `cfg_clr_ticks` (R32). -/
  cfgClrTicks : BitVec 24
  /-- `fault` (R33). -/
  fault : Bool
  /-- `fault_code` (R33). -/
  faultCode : BitVec 4
  /-- TICK_US of this build (R7). -/
  tickUs : Nat
  /-- TOVF_US of this build (R7). -/
  tovfUs : Nat
  /-- The model's own: what the environment will present, in its order (R58). -/
  inbox : List Stimulus
  /-- The model's own: the response word the last step returned, if it ran a command (R71). -/
  resp : Option Word
  deriving DecidableEq, Repr

/-- The build parameters of a machine (R7); REG_DEPTH is its number of slots. -/
def State.build (s : State) : Build := { tickUs := s.tickUs, tovfUs := s.tovfUs, regDepth := s.reg.length }

/-- No step of this machine stops: the block's own faults are a state it enters (R238), and every word has a
response (R71). So there is no reason to name, and the type is empty. -/
inductive Fault where
  deriving DecidableEq, Repr

/-- Why a step would have no meaning. -/
inductive Refusal where
  /-- An instruction whose meaning is not written: raised by an arm of `exec` only, and by none at present. Safe:
  the machine stops. -/
  | notModelled (mnemonic : String)
  deriving DecidableEq, Repr

/-- R260: the state power-on reset leaves, for any build. Nothing is presented yet and no response is out. -/
def State.por (b : Build) : State where
  phase := .idle
  preCnt := 0
  bbLen := 0
  bb := Vector.replicate 36 false
  frameReady := false
  idleTicks := 0
  clrTicks := 0
  clearReq := false
  avail := false
  resSys := 0
  resAddr := 0
  resCmd := 0
  reg := List.replicate b.regDepth { valid := false, key := 0 }
  configured := false
  cfgClrTicks := BitVec.ofNat 24 (clrTicksFor b.tovfUs 0)
  fault := false
  faultCode := 0
  tickUs := b.tickUs
  tovfUs := b.tovfUs
  inbox := []
  resp := none

/-- The machine right after reset: R260 at the reference build (notes/assumptions/2.md). -/
def State.reset : State := State.por Build.reference

end Sys2Proof.Machine
end

