-- ==== Sys2Proof/Machine/Operands.lean ====
section
/-! DEFINITION. The encodings of the block's internal values and the packing of its operands and responses
(spec/30_encoding.md R71, R77 to R82, spec/60_exceptions.md R230, spec/20_memory.md R52). -/

namespace Sys2Proof.Machine

/-- R78: the 4-bit code of a phase. -/
def Phase.code : Phase → BitVec 4
  | .idle => 0
  | .leadingPulse => 1
  | .leadingSpace => 2
  | .preamble => 3
  | .systemCodeField => 4
  | .addressField => 5
  | .commandField => 6
  | .finalPulse => 7
  | .cooldown => 8

/-- R79. -/
def IntervalClass.code : IntervalClass → Nat
  | .short => 0
  | .long => 1
  | .leadingMark => 2
  | .leadingGap => 3
  | .finalMark => 4
  | .outOfTolerance => 7

/-- R105: the nominal duration in µs of a class; `none` for the absence of one. -/
def IntervalClass.nominalUs : IntervalClass → Option Nat
  | .short => some Config.nomShortUs
  | .long => some Config.nomLongUs
  | .leadingMark => some Config.nomLeadMarkUs
  | .leadingGap => some Config.nomLeadGapUs
  | .finalMark => some Config.nomFinalUs
  | .outOfTolerance => none

/-- R80: the buffer entry of an accepted half-interval, Short = 0 and Long = 1. -/
def IntervalClass.entry (c : IntervalClass) : Bool := decide (c = .long)

/-- R77: the code of a status. -/
def Status.code : Status → BitVec 4
  | .ok => 0
  | .regFull => 1
  | .illegal => 2
  | .faulted => 3
  | .notConfigured => 4

/-- R230: the code of a condition. -/
def Condition.code : Condition → BitVec 4
  | .toleranceReject => 1
  | .timeout => 2
  | .registryFull => 3
  | .malformedFrameReady => 4
  | .bufferOverrun => 5
  | .illegal => 6
  | .notConfigured => 7

/-- R230: the STATUS the command that meets the condition returns. -/
def Condition.status : Condition → Status
  | .toleranceReject => .ok
  | .timeout => .ok
  | .registryFull => .regFull
  | .malformedFrameReady => .faulted
  | .bufferOverrun => .faulted
  | .illegal => .illegal
  | .notConfigured => .notConfigured

/-- The condition of R230 that a fault records. -/
def FaultCause.condition : FaultCause → Condition
  | .malformedFrameReady => .malformedFrameReady
  | .bufferOverrun => .bufferOverrun

/-- R230, R238: the value `fault_code` takes. -/
def FaultCause.code (c : FaultCause) : BitVec 4 := c.condition.code

/-- R71: the response word, STATUS in bits 31:28, zeros in 27:24, DATA in 23:0. -/
def response (st : Status) (data : BitVec 24) : Word := st.code ++ (0#4 ++ data)

/-- A Boolean result as DATA: bit 0, the others 0 (R160, R193, R194). -/
def boolData (b : Bool) : BitVec 24 := (BitVec.ofBool b).setWidth 24

/-- R192: DATA of a DISABLE that added its pair. -/
def addedData : BitVec 24 := 0b01

/-- R192: DATA of a DISABLE whose pair is already held. -/
def alreadyData : BitVec 24 := 0b10

/-- R10, R52: the registry key {system_code, command}, system_code in bits 15:8. -/
def pairKey (sys cmd : BitVec 8) : BitVec 16 := sys ++ cmd

/-- R81: DATA of READ_FRAME. -/
def frameData (s : State) : BitVec 24 := s.resSys ++ (s.resAddr ++ s.resCmd)

/-- R82, R213: DATA of READ_STATUS. -/
def statusData (s : State) : BitVec 24 :=
  s.faultCode ++ (s.preCnt ++ (s.bbLen ++ (BitVec.ofBool s.fault ++ (BitVec.ofBool s.clearReq ++
    (BitVec.ofBool s.avail ++ (BitVec.ofBool s.frameReady ++ s.phase.code))))))

end Sys2Proof.Machine
end

