-- ==== Sys2Proof/Machine/Flags.lean ====
section
/-! DEFINITION. What the flags and the phase say: the capture in progress, the guard of the clear service, and the
outputs (spec/00_scope.md glossary, spec/10_state.md R34, R36, spec/42_poll_decode.md R161). The rules that set and clear
a flag stand with the command that writes it. -/

namespace Sys2Proof.Machine

/-- R21: a capture is in progress exactly in the phases 1..7. -/
def Phase.capturing : Phase → Bool
  | .idle => false
  | .leadingPulse => true
  | .leadingSpace => true
  | .preamble => true
  | .systemCodeField => true
  | .addressField => true
  | .commandField => true
  | .finalPulse => true
  | .cooldown => false

/-- R161: the clear service may run: a request is pending, no capture is in progress and no frame waits. -/
def clearServiceDue (s : State) : Bool := s.clearReq && !s.phase.capturing && !s.frameReady

/-- R34, R121: the level output FRDY. -/
def frdyOutput (s : State) : Bool := s.frameReady

/-- R34: the level output FAULT. -/
def faultOutput (s : State) : Bool := s.fault

end Sys2Proof.Machine
end

