-- ==== Sys2Proof/Machine/Ops.lean ====
section
/-! DEFINITION. The operations the commands share: the response, the Bit Buffer and the registry, the reset of a
capture, entering the faulted state, and the checks every command passes first (spec/20_memory.md R51, R52,
spec/40_acquisition.md R102, R108, R109, R118, spec/43_registry.md R191, R195, spec/44_control.md R214 to R216,
spec/60_exceptions.md R238, R239, spec/70_reset_and_hazards.md R260). -/

namespace Sys2Proof.Machine

/-- `resp <- (status, data)` (R12, R71). -/
def respond (st : Status) (data : BitVec 24) (s : State) : State := { s with resp := some (response st data) }

/-- A refusal: the response alone, DATA = 0 (R71, R216). -/
def refuse (st : Status) (s : State) : State := respond st 0 s

/-- R51: `MemRead(BB, i, 1)`. An index of 36 or more is never formed by a rule; it would read as 0. -/
def bbRead (bb : Vector Bool 36) (i : Nat) : Bool := bb[i]?.getD false

/-- R51: `MemWrite(BB, i, 1, b)`. An index of 36 or more is never formed by a rule; it would write nothing. -/
def bbWrite (bb : Vector Bool 36) (i : Nat) (b : Bool) : Vector Bool 36 := bb.setIfInBounds i b

/-- R51: every entry 0. -/
def bbZero : Vector Bool 36 := Vector.replicate 36 false

/-- R118: append one entry, or the overrun fault. -/
def append (b : Bool) (s : State) : Except FaultCause State :=
  if Config.bbCap ≤ s.bbLen.toNat then .error .bufferOverrun
  else .ok { s with bb := bbWrite s.bb s.bbLen.toNat b, bbLen := s.bbLen + 1 }

/-- R102: every EDGE resets both watchdog counters. -/
def resetWatchdog (s : State) : State := { s with idleTicks := 0, clrTicks := 0 }

/-- The sequencing state (R35) at the start of `p` with nothing captured. -/
def restartAt (p : Phase) (s : State) : State := { s with phase := p, bbLen := 0, preCnt := 0 }

/-- R109: StartCapture. -/
def startCapture (s : State) : State := restartAt .leadingPulse s

/-- R108: RejectReset. -/
def rejectReset (s : State) : State := restartAt .idle s

/-- R52: the slot holds the key. -/
def Slot.holds (sl : Slot) (key : BitVec 16) : Bool := sl.valid && decide (sl.key = key)

/-- R191: Contains(s, c) over the slots. -/
def containsPair (reg : List Slot) (sys cmd : BitVec 8) : Bool := reg.any fun sl => sl.holds (pairKey sys cmd)

/-- R195: write the key into the free slot of lowest index; `none` when every slot is valid. -/
def fillLowestFree (key : BitVec 16) : List Slot → Option (List Slot)
  | [] => none
  | sl :: rest => if sl.valid then (fillLowestFree key rest).map (sl :: ·) else some ({ valid := true, key := key } :: rest)

/-- R193: clear the valid bit of the slot that holds the key, its key left stale. At most one does (R190); were there
several, the lowest (notes/assumptions/6.md). -/
def dropKey (key : BitVec 16) : List Slot → List Slot
  | [] => []
  | sl :: rest => if sl.holds key then { sl with valid := false } :: rest else sl :: dropKey key rest

/-- Entering the faulted state (R238), from the state before the faulting command, so that its writes are
discarded (R239): the block's one exception entry. There is no return from it but power-on reset (R240). -/
def takeFault (c : FaultCause) (s : State) : State :=
  { s with fault := true, faultCode := c.code, resp := some (response .faulted 0) }

/-- A command's own rule run to its end, or its fault taken (R238). -/
def complete (rule : State → Except FaultCause State) (s : State) : State :=
  match rule s with
  | .ok t => t
  | .error c => takeFault c s

/-- R216 for a command that needs no INIT: refused while faulted. -/
def runCommand (rule : State → Except FaultCause State) (s : State) : Host.Outcome State Fault Refusal :=
  .next (if s.fault then refuse .faulted s else complete rule s)

/-- R216 for EDGE and TICK: refused while faulted, then while not configured. -/
def runEvent (rule : State → Except FaultCause State) (s : State) : Host.Outcome State Fault Refusal :=
  .next (if s.fault then refuse .faulted s else if s.configured then complete rule s else refuse .notConfigured s)

/-- R214, R216: a word that spells no command. -/
def refuseIllegal (s : State) : Host.Outcome State Fault Refusal :=
  .next (if s.fault then refuse .faulted s else refuse .illegal s)

/-- R5: nothing is presented, so nothing changes; no response is returned. -/
def idleStep (s : State) : State := { s with resp := none }

/-- R260: power-on reset of this build. It is no command and returns no response; what the environment presents
afterwards is the environment's. -/
def powerOn (s : State) : State := { State.por s.build with inbox := s.inbox }

end Sys2Proof.Machine
end

