-- ==== Sys2Proof/Machine/Acquisition.lean ====
section
/-! DEFINITION. EDGE: the interval classifier and the nine phases (spec/40_acquisition.md R100 to R118). -/

namespace Sys2Proof.Machine

/-- R106: the class of a half-interval in Preamble and the field phases; Short is tested first. -/
def classify (tickUs : Nat) (dt : BitVec 16) (isMark : Bool) : IntervalClass :=
  if inWin tickUs dt Config.nomShortUs then .short
  else if !isMark && inWin tickUs dt Config.nomLongUs then .long
  else .outOfTolerance

/-- R107: in phase Preamble the half-interval is a mark when `pre_cnt` is even. -/
def preambleMark (s : State) : Bool := s.preCnt.toNat % 2 == 0

/-- R107: in a field phase the half-interval is a mark when `bb_len` is even. -/
def fieldMark (s : State) : Bool := s.bbLen.toNat % 2 == 0

/-- R112: `pre_cnt` + 1 in 6 bits; 64 does not fit and its value is free (notes/assumptions/5.md). -/
def preCntSucc (dt : BitVec 16) (n : BitVec 6) : BitVec 6 :=
  if n.toNat + 1 < 64 then BitVec.ofNat 6 (n.toNat + 1) else Config.preCntOverflow dt

/-- R112: the phase that the counter's new value selects; between the milestones it stays Preamble. -/
def milestonePhase (n : BitVec 6) : Phase :=
  if n.toNat = Config.preH1 then .systemCodeField
  else if n.toNat = Config.preH2 then .addressField
  else if n.toNat = Config.preH3 then .finalPulse
  else .preamble

/-- R112: PreambleStep, in phase Preamble. -/
def preambleStep (dt : BitVec 16) (s : State) : State :=
  if classify s.tickUs dt (preambleMark s) = .outOfTolerance then rejectReset s
  else { s with preCnt := preCntSucc dt s.preCnt, phase := milestonePhase (preCntSucc dt s.preCnt) }

/-- R113: FieldStep's last line: the phase left when the field is full. -/
def leaveFieldAt (limit : Nat) (next : Phase) (s : State) : State :=
  if s.bbLen.toNat = limit then { s with phase := next } else s

/-- R113: FieldStep. -/
def fieldStep (dt : BitVec 16) (limit : Nat) (next : Phase) (s : State) : Except FaultCause State :=
  if classify s.tickUs dt (fieldMark s) = .outOfTolerance then .ok (rejectReset s)
  else (append (classify s.tickUs dt (fieldMark s)).entry s).map (leaveFieldAt limit next)

/-- R110: phase LeadingPulse. -/
def leadingPulseStep (dt : BitVec 16) (s : State) : State :=
  if inWin s.tickUs dt Config.nomLeadMarkUs then { s with phase := .leadingSpace } else rejectReset s

/-- R111: phase LeadingSpace. -/
def leadingSpaceStep (dt : BitVec 16) (s : State) : State :=
  if inWin s.tickUs dt Config.nomLeadGapUs then { s with phase := .preamble, preCnt := 0 } else rejectReset s

/-- R116: phase FinalPulse; accepting raises `frame_ready`. -/
def finalPulseStep (dt : BitVec 16) (s : State) : State :=
  if inWin s.tickUs dt Config.nomFinalUs then { s with phase := .cooldown, frameReady := true, preCnt := 0 }
  else rejectReset s

/-- R109 to R117: the transition of the current phase. -/
def phaseStep (dt : BitVec 16) (s : State) : Except FaultCause State :=
  match s.phase with
  | .idle => .ok (startCapture s)
  | .leadingPulse => .ok (leadingPulseStep dt s)
  | .leadingSpace => .ok (leadingSpaceStep dt s)
  | .preamble => .ok (preambleStep dt s)
  | .systemCodeField => fieldStep dt 8 .preamble s
  | .addressField => fieldStep dt 20 .commandField s
  | .commandField => fieldStep dt 36 .preamble s
  | .finalPulse => .ok (finalPulseStep dt s)
  | .cooldown => .ok (startCapture s)

/-- R103: while `frame_ready` = 1 the edge is dropped. -/
def acquire (dt : BitVec 16) (s : State) : Except FaultCause State :=
  if s.frameReady then .ok s else phaseStep dt s

/-- R100: the counters, the response, then the state machine. -/
def edgeRule (dt : BitVec 16) (s : State) : Except FaultCause State := acquire dt (respond .ok 0 (resetWatchdog s))

/-- EDGE dt (R100). -/
def execEdge (dt : BitVec 16) (s : State) : Host.Outcome State Fault Refusal := runEvent (edgeRule dt) s

end Sys2Proof.Machine
end

