-- ==== Sys2Proof/Machine/Control.lean ====
section
/-! DEFINITION. NOP, INIT, READ_STATUS and the reserved words (spec/44_control.md R210 to R215). -/

namespace Sys2Proof.Machine

/-- R211: what INIT leaves; the registry, the fault registers and the build are kept. -/
def initRule (ivl : BitVec 24) (s : State) : State :=
  respond .ok 0
    { s with
      phase := .idle, preCnt := 0, bbLen := 0, bb := bbZero, frameReady := false, idleTicks := 0, clrTicks := 0
      clearReq := false, avail := false, resSys := 0, resAddr := 0, resCmd := 0
      cfgClrTicks := BitVec.ofNat 24 (clrTicksFor s.tovfUs ivl.toNat), configured := true }

/-- NOP (R210). -/
def execNop (s : State) : Host.Outcome State Fault Refusal := runCommand (fun s => .ok (respond .ok 0 s)) s

/-- INIT ivl (R211). -/
def execInit (ivl : BitVec 24) (s : State) : Host.Outcome State Fault Refusal :=
  runCommand (fun s => .ok (initRule ivl s)) s

/-- READ_STATUS (R213), the one command that runs while faulted (R215, R216). -/
def execReadStatus (s : State) : Host.Outcome State Fault Refusal := .next (respond .ok (statusData s) s)

/-- A word of opcode 0xA or 0xB (R75, R214). -/
def execReservedAB (_op : BitVec 4) (_rest : BitVec 28) (s : State) : Host.Outcome State Fault Refusal :=
  refuseIllegal s

/-- A word of opcode 0xC to 0xF (R75, R214). -/
def execReservedCF (_op : BitVec 4) (_rest : BitVec 28) (s : State) : Host.Outcome State Fault Refusal :=
  refuseIllegal s

end Sys2Proof.Machine
end

