-- ==== Sys2Proof/Machine/Poll.lean ====
section
/-! DEFINITION. POLL, READ_FRAME and the field decoder (spec/42_poll_decode.md R160 to R169). -/

namespace Sys2Proof.Machine

/-- R163: Σ over j < n of bb[base + 2j + 1]·2^j, the space entries of a field of n bits. -/
def fieldValue (bb : Vector Bool 36) (base : Nat) : Nat → Nat
  | 0 => 0
  | n + 1 => fieldValue bb base n + (bbRead bb (base + 2 * n + 1)).toNat * 2 ^ n

/-- R163: the systemCode of the captured frame, widened to 8 bits. -/
def decodedSys (bb : Vector Bool 36) : BitVec 8 := BitVec.ofNat 8 (fieldValue bb Config.sysBase Config.sysW)

/-- R163: the address of the captured frame, widened to 8 bits. -/
def decodedAddr (bb : Vector Bool 36) : BitVec 8 := BitVec.ofNat 8 (fieldValue bb Config.addrBase Config.addrW)

/-- R163: the command of the captured frame. -/
def decodedCmd (bb : Vector Bool 36) : BitVec 8 := BitVec.ofNat 8 (fieldValue bb Config.cmdBase Config.cmdW)

/-- R161: step 1, the clear service. -/
def clearService (s : State) : State :=
  if clearServiceDue s then { s with bb := bbZero, bbLen := 0, clearReq := false } else s

/-- R164: the captured frame repeats the stored pair, the pair is in the registry, and the previous call reported
availability. -/
def repeatSuppressed (s : State) : Bool :=
  decide (decodedSys s.bb = s.resSys) && decide (decodedCmd s.bb = s.resCmd)
    && containsPair s.reg (decodedSys s.bb) (decodedCmd s.bb) && s.avail

/-- R162, R168: the frame is consumed. -/
def consumeFrame (s : State) : State := { s with avail := true, frameReady := false, bbLen := 0 }

/-- R164, R165: a suppressed frame leaves the Decoded Frame, another replaces all three fields of it. -/
def takeFrame (s : State) : State :=
  if repeatSuppressed s then respond .ok (boolData false) (consumeFrame s)
  else respond .ok (boolData true)
    { consumeFrame s with resSys := decodedSys s.bb, resAddr := decodedAddr s.bb, resCmd := decodedCmd s.bb }

/-- R166, R167: no frame waits; a held button of a registered pair is suppressed, else `avail` is the answer. -/
def reportLevel (s : State) : State :=
  if s.avail && containsPair s.reg s.resSys s.resCmd then respond .ok (boolData false) s
  else respond .ok (boolData s.avail) s

/-- R162: step 2's check of the malformed frame-ready state, then steps 2 to 4. -/
def pollFrame (s : State) : Except FaultCause State :=
  if s.frameReady then
    (if s.bbLen.toNat = Config.bbCap then .ok (takeFrame s) else .error .malformedFrameReady)
  else .ok (reportLevel s)

/-- R160: step 1, then steps 2 to 4. -/
def pollRule (s : State) : Except FaultCause State := pollFrame (clearService s)

/-- POLL (R160). -/
def execPoll (s : State) : Host.Outcome State Fault Refusal := runCommand pollRule s

/-- READ_FRAME (R169). -/
def execReadFrame (s : State) : Host.Outcome State Fault Refusal :=
  runCommand (fun s => .ok (respond .ok (frameData s) s)) s

end Sys2Proof.Machine
end

