-- ==== Sys2Proof/Machine/Registry.lean ====
section
/-! DEFINITION. DISABLE, ENABLE and CONTAINS (spec/43_registry.md R190 to R195). -/

namespace Sys2Proof.Machine

/-- R192: present, added, or full, in this order. -/
def disableRule (sys cmd : BitVec 8) (s : State) : State :=
  if containsPair s.reg sys cmd then respond .ok alreadyData s
  else
    match fillLowestFree (pairKey sys cmd) s.reg with
    | some reg => respond .ok addedData { s with reg := reg }
    | none => respond .regFull 0 s

/-- R193: removed, or absent and a no-op. -/
def enableRule (sys cmd : BitVec 8) (s : State) : State :=
  if containsPair s.reg sys cmd then respond .ok (boolData true) { s with reg := dropKey (pairKey sys cmd) s.reg }
  else respond .ok (boolData false) s

/-- DISABLE s, c (R192). -/
def execDisable (sys cmd : BitVec 8) (s : State) : Host.Outcome State Fault Refusal :=
  runCommand (fun s => .ok (disableRule sys cmd s)) s

/-- ENABLE s, c (R193). -/
def execEnable (sys cmd : BitVec 8) (s : State) : Host.Outcome State Fault Refusal :=
  runCommand (fun s => .ok (enableRule sys cmd s)) s

/-- CONTAINS s, c (R194). -/
def execContains (sys cmd : BitVec 8) (s : State) : Host.Outcome State Fault Refusal :=
  runCommand (fun s => .ok (respond .ok (boolData (containsPair s.reg sys cmd)) s)) s

end Sys2Proof.Machine
end

