-- ==== Sys2Proof/Machine/Watchdog.lean ====
section
/-! DEFINITION. TICK: the silence timeout and the periodic clear request (spec/41_watchdog.md R140 to R145). -/

namespace Sys2Proof.Machine

/-- R143: the capture in progress is discarded, a frame that waits is not, and `avail` is cleared. -/
def timeout (s : State) : State :=
  if s.phase.capturing then { restartAt .idle s with avail := false } else { s with phase := .idle, avail := false }

/-- R142: `idle_ticks` counts to 3 and stays; reaching 3 is the timeout. -/
def countIdle (s : State) : State :=
  if s.idleTicks.toNat < Config.timeoutTicks then
    (if s.idleTicks.toNat + 1 = Config.timeoutTicks then timeout { s with idleTicks := s.idleTicks + 1 }
     else { s with idleTicks := s.idleTicks + 1 })
  else s

/-- R144: `clr_ticks` counts to `cfg_clr_ticks`, which raises the request and starts over. -/
def countClear (s : State) : State :=
  if s.cfgClrTicks.toNat ≤ s.clrTicks.toNat + 1 then { s with clearReq := true, clrTicks := 0 }
  else { s with clrTicks := s.clrTicks + 1 }

/-- R140. -/
def tickRule (s : State) : State := countClear (countIdle (respond .ok 0 s))

/-- TICK (R140). -/
def execTick (s : State) : Host.Outcome State Fault Refusal := runEvent (fun s => .ok (tickRule s)) s

end Sys2Proof.Machine
end

