-- ==== Sys2Proof/Machine/Dispatch.lean ====
section
/-! DEFINITION. One arm per command (spec/30_encoding.md R72). -/

namespace Sys2Proof.Machine

def exec (i : Instr) (s : State) : Host.Outcome State Fault Refusal :=
  match i with
  | .nop => Sys2Proof.Machine.execNop s
  | .init ivl => Sys2Proof.Machine.execInit ivl s
  | .edge dt => Sys2Proof.Machine.execEdge dt s
  | .tick => Sys2Proof.Machine.execTick s
  | .poll => Sys2Proof.Machine.execPoll s
  | .disable sys cmd => Sys2Proof.Machine.execDisable sys cmd s
  | .enable sys cmd => Sys2Proof.Machine.execEnable sys cmd s
  | .contains sys cmd => Sys2Proof.Machine.execContains sys cmd s
  | .readFrame => Sys2Proof.Machine.execReadFrame s
  | .readStatus => Sys2Proof.Machine.execReadStatus s
  | .reservedAB op rest => Sys2Proof.Machine.execReservedAB op rest s
  | .reservedCF op rest => Sys2Proof.Machine.execReservedCF op rest s

end Sys2Proof.Machine
end

