-- ==== Sys2Proof/Machine/Step.lean ====
section
/-! DEFINITION. One step: the block takes what the environment presents next (spec/00_scope.md R5,
spec/20_memory.md R58) and runs it whole (spec/44_control.md R216). -/

namespace Sys2Proof.Machine

/-- R216: the word is run as the command it spells, or refused as spelling none. -/
def runWord (w : Word) (s : State) : Host.Outcome State Fault Refusal :=
  match decode w with
  | .command i => exec i s
  | .illegal _ => refuseIllegal s

/-- One transaction: the first entry of `inbox`, taken out of it, then run. -/
def step (s : State) : Host.Outcome State Fault Refusal :=
  match s.inbox with
  | [] => .next (idleStep s)
  | .powerOnReset :: rest => .next (powerOn { s with inbox := rest })
  | .command w :: rest => runWord w { s with inbox := rest }

/-- The word presented next: what a program counter would point to on a processor (R35). -/
def State.withFetchWord (s : State) (nbits w : Nat) : State :=
  { s with inbox := .command (BitVec.ofNat 32 (w % 2 ^ nbits)) :: s.inbox }

end Sys2Proof.Machine
end

