-- ==== Sys2Proof/Machine/Assembler.lean ====
section
/-! DEFINITION. The written form of commands and the pseudo-instructions, with the frame layout they produce
(spec/30_encoding.md R83, R84, spec/40_acquisition.md R120, spec/70_reset_and_hazards.md R275). The block itself
sees only the words. -/

namespace Sys2Proof.Machine

/-- R84: one `dt` for each nominal duration. -/
structure Profile where
  short : BitVec 16
  long : BitVec 16
  leadMark : BitVec 16
  leadGap : BitVec 16
  final : BitVec 16
  deriving DecidableEq, Repr

/-- R84: profile P128, for TICK_US = 128. -/
def Profile.p128 : Profile := { short := 3, long := 10, leadMark := 26, leadGap := 13, final := 3 }

/-- R84: profile P1, for TICK_US = 1. -/
def Profile.p1 : Profile := { short := 420, long := 1270, leadMark := 3380, leadGap := 1690, final := 420 }

/-- Every `dt` of the profile lies in the window of its class at this tick (R104, R105). -/
def Profile.fits (p : Profile) (tickUs : Nat) : Bool :=
  inWin tickUs p.short Config.nomShortUs && inWin tickUs p.long Config.nomLongUs &&
    inWin tickUs p.leadMark Config.nomLeadMarkUs && inWin tickUs p.leadGap Config.nomLeadGapUs &&
    inWin tickUs p.final Config.nomFinalUs

/-- R84 START: the value is ignored in Idle and Cooldown. -/
def startEdges : List Instr := [.edge 0xFFFF]

/-- R84 LEADER. -/
def leaderEdges (p : Profile) : List Instr := [.edge p.leadMark, .edge p.leadGap]

/-- R84 BIT b: a Short mark, then a Short or Long space. -/
def bitEdges (p : Profile) (b : Bool) : List Instr := [.edge p.short, .edge (if b then p.long else p.short)]

/-- R84 BITS v, n: bits 0 to n − 1 of v, the least significant first. -/
def bitsEdges (p : Profile) (v : Nat) : Nat → List Instr
  | 0 => []
  | n + 1 => bitsEdges p v n ++ bitEdges p (v.testBit n)

/-- R84 FINAL. -/
def finalEdges (p : Profile) : List Instr := [.edge p.final]

/-- R84 FRAME pre, s, a, c, the 100 edges of R120. -/
def frameEdges (p : Profile) (pre : BitVec 30) (s : BitVec 4) (a : BitVec 6) (c : BitVec 8) : List Instr :=
  startEdges ++ leaderEdges p ++ bitsEdges p pre.toNat 20 ++ bitsEdges p s.toNat 4
    ++ bitsEdges p (pre.toNat >>> 20) 2 ++ bitsEdges p a.toNat 6 ++ bitsEdges p c.toNat 8
    ++ bitsEdges p (pre.toNat >>> 22) 8 ++ finalEdges p

/-- R105: `dt` lies in the window of the class at this tick; no `dt` lies in the window of OutOfTolerance. -/
def IntervalClass.admits (tickUs : Nat) (dt : BitVec 16) (c : IntervalClass) : Bool :=
  match c.nominalUs with
  | some n => inWin tickUs dt n
  | none => false

/-- R120: the classes of the mark and the space of a bit. -/
def bitClasses (b : Bool) : List IntervalClass := [.short, if b then .long else .short]

/-- R120: the classes of bits 0 to n − 1 of v, the least significant first. -/
def bitsClasses (v : Nat) : Nat → List IntervalClass
  | 0 => []
  | n + 1 => bitsClasses v n ++ bitClasses (v.testBit n)

/-- R120: the class of the half-interval that each of the edges e1 to e99 of a frame ends. Edge e0 ends none. -/
def frameClasses (pre : BitVec 30) (s : BitVec 4) (a : BitVec 6) (c : BitVec 8) : List IntervalClass :=
  [.leadingMark, .leadingGap] ++ bitsClasses pre.toNat 20 ++ bitsClasses s.toNat 4
    ++ bitsClasses (pre.toNat >>> 20) 2 ++ bitsClasses a.toNat 6 ++ bitsClasses c.toNat 8
    ++ bitsClasses (pre.toNat >>> 22) 8 ++ [.finalMark]

/-- R275: the nominal duration in µs of a frame from e0 to e99 with this many 0 bits and 1 bits. No rule uses it. -/
def nominalFrameUs (zeros ones : Nat) : Nat :=
  Config.nomLeadMarkUs + Config.nomLeadGapUs + (zeros + ones) * Config.nomShortUs + zeros * Config.nomShortUs
    + ones * Config.nomLongUs + Config.nomFinalUs

/-- One line of the command language: a command (R83), a pseudo-instruction (R84), or STD, the shorthand of
spec/95_test_vectors.md section 0. -/
inductive AsmItem where
  | command (i : Instr)
  | start
  | leader
  | bit (b : Bool)
  | bits (v n : Nat)
  | final
  | frame (pre : BitVec 30) (s : BitVec 4) (a : BitVec 6) (c : BitVec 8)
  deriving DecidableEq, Repr

/-- The commands a line stands for (R84). -/
def AsmItem.expand (p : Profile) : AsmItem → List Instr
  | .command i => [i]
  | .start => startEdges
  | .leader => leaderEdges p
  | .bit b => bitEdges p b
  | .bits v n => bitsEdges p v n
  | .final => finalEdges p
  | .frame pre s a c => frameEdges p pre s a c

/-- An operand that fits its field (R73). -/
def operandOf (width n : Nat) : Option (BitVec width) := if n < 2 ^ width then some (BitVec.ofNat width n) else none

/-- R83, R84: the forms of a line. A mnemonic with other operands than its form's is no line. -/
def asmItemOf (mnemonic : String) (operands : List Nat) : Option AsmItem :=
  match operands with
  | [] =>
    if mnemonic = "NOP" then some (.command .nop)
    else if mnemonic = "TICK" then some (.command .tick)
    else if mnemonic = "POLL" then some (.command .poll)
    else if mnemonic = "READ_FRAME" then some (.command .readFrame)
    else if mnemonic = "READ_STATUS" then some (.command .readStatus)
    else if mnemonic = "START" then some .start
    else if mnemonic = "LEADER" then some .leader
    else if mnemonic = "FINAL" then some .final
    else none
  | [x] =>
    if mnemonic = "INIT" then (operandOf 24 x).map fun ivl => .command (.init ivl)
    else if mnemonic = "EDGE" then (operandOf 16 x).map fun dt => .command (.edge dt)
    else if mnemonic = "BIT" then (operandOf 1 x).map fun b => .bit (decide (b = 1))
    else none
  | [x, y] =>
    if mnemonic = "DISABLE" then
      (operandOf 8 x).bind fun s => (operandOf 8 y).map fun c => .command (.disable s c)
    else if mnemonic = "ENABLE" then
      (operandOf 8 x).bind fun s => (operandOf 8 y).map fun c => .command (.enable s c)
    else if mnemonic = "CONTAINS" then
      (operandOf 8 x).bind fun s => (operandOf 8 y).map fun c => .command (.contains s c)
    else if mnemonic = "BITS" then some (.bits x y)
    else none
  | [x, y, z] =>
    if mnemonic = "STD" then
      (operandOf 4 x).bind fun s => (operandOf 6 y).bind fun a => (operandOf 8 z).map fun c => .frame 0x2AAAAAAA s a c
    else none
  | [x, y, z, u] =>
    if mnemonic = "FRAME" then
      (operandOf 30 x).bind fun pre => (operandOf 4 y).bind fun s => (operandOf 6 z).bind fun a =>
        (operandOf 8 u).map fun c => .frame pre s a c
    else none
  | _ => none

/-- A blank of a line. -/
def isBlank (c : Char) : Bool := c == ' ' || c == '\t'

/-- The text without the blanks at its two ends. -/
def trimBlanks (cs : List Char) : List Char := ((cs.dropWhile isBlank).reverse.dropWhile isBlank).reverse

/-- The pieces of an operand text between its commas (R83). -/
def splitCommas : List Char → List (List Char)
  | [] => [[]]
  | c :: cs =>
    if c = ',' then [] :: splitCommas cs
    else
      match splitCommas cs with
      | [] => [[c]]
      | piece :: rest => (c :: piece) :: rest

/-- The value of one digit, if it is one of this base (10 or 16). -/
def digitOf (base : Nat) (c : Char) : Option Nat :=
  let n := c.toNat
  let d := if 48 ≤ n && n ≤ 57 then n - 48 else if 65 ≤ n && n ≤ 70 then n - 55
    else if 97 ≤ n && n ≤ 102 then n - 87 else base
  if d < base then some d else none

/-- The value of a run of digits after `acc`. -/
def digitsFrom (base : Nat) (acc : Nat) : List Char → Option Nat
  | [] => some acc
  | c :: cs => (digitOf base c).bind fun d => digitsFrom base (acc * base + d) cs

/-- R83: a decimal number, or a hexadecimal one after 0x; at least one digit. -/
def numberOf : List Char → Option Nat
  | [] => none
  | '0' :: 'x' :: [] => none
  | '0' :: 'x' :: cs => digitsFrom 16 0 cs
  | cs => digitsFrom 10 0 cs

/-- Every piece of an operand text as a number, or `none` if one is no number. -/
def numbersOf : List (List Char) → Option (List Nat)
  | [] => some []
  | piece :: rest => (numberOf (trimBlanks piece)).bind fun n => (numbersOf rest).map (n :: ·)

/-- R83: the numbers after a mnemonic. -/
def operandsOf (cs : List Char) : Option (List Nat) := if cs = [] then some [] else numbersOf (splitCommas cs)

/-- R83: one line without its comment: nothing, or one item; `none` where it has none of the forms. -/
def parseLine (line : List Char) : Option (List AsmItem) :=
  let text := trimBlanks (line.takeWhile (· != ';'))
  if text = [] then some []
  else
    let mnemonic := text.takeWhile fun c => !isBlank c
    let rest := trimBlanks (text.dropWhile fun c => !isBlank c)
    (operandsOf rest).bind fun ns => (asmItemOf (String.ofList mnemonic) ns).map fun item => [item]

/-- The words of one line (R83, R84). -/
def assembleLine (p : Profile) (line : String) : Option (List Word) :=
  (parseLine line.toList).map fun items => items.flatMap fun item => (item.expand p).map encode

end Sys2Proof.Machine
end

