-- ==== Sys2Proof/Safety.lean ====
section
/-! DEFINITION. The terms claims are stated in: the invariants of spec/10_state.md R38, the states a machine reaches, what a
command must leave alone (R39), and the contexts of spec/60_exceptions.md R246. -/

namespace Sys2Proof.Machine

/-- R38 (1), with R33: no fault, and no fault code. -/
abbrev State.NoFault (s : State) : Prop := s.fault = false ∧ s.faultCode = 0

/-- R38 (2). -/
abbrev State.FrameWaits (s : State) : Prop :=
  s.frameReady = true → (s.phase = .cooldown ∨ s.phase = .idle) ∧ s.bbLen.toNat = 36

/-- R38 (3). -/
abbrev State.RestEmpty (s : State) : Prop :=
  (s.phase = .idle ∨ s.phase = .cooldown) → s.preCnt.toNat = 0 ∧ (s.frameReady = false → s.bbLen.toNat = 0)

/-- R38 (4). -/
abbrev State.LeadEmpty (s : State) : Prop :=
  (s.phase = .leadingPulse ∨ s.phase = .leadingSpace) → s.preCnt.toNat = 0 ∧ s.bbLen.toNat = 0

/-- R38 (5). -/
abbrev State.PreambleCounts (s : State) : Prop :=
  s.phase = .preamble →
    (s.preCnt.toNat < 40 ∧ s.bbLen.toNat = 0) ∨
    (40 ≤ s.preCnt.toNat ∧ s.preCnt.toNat < 44 ∧ s.bbLen.toNat = 8) ∨
    (44 ≤ s.preCnt.toNat ∧ s.preCnt.toNat < 60 ∧ s.bbLen.toNat = 36)

/-- R38 (6). -/
abbrev State.FieldCounts (s : State) : Prop :=
  (s.phase = .systemCodeField → s.preCnt.toNat = 40 ∧ s.bbLen.toNat < 8) ∧
  (s.phase = .addressField → s.preCnt.toNat = 44 ∧ 8 ≤ s.bbLen.toNat ∧ s.bbLen.toNat < 20) ∧
  (s.phase = .commandField → s.preCnt.toNat = 44 ∧ 20 ≤ s.bbLen.toNat ∧ s.bbLen.toNat < 36) ∧
  (s.phase = .finalPulse → s.preCnt.toNat = 60 ∧ s.bbLen.toNat = 36)

/-- R38 (7): marks are never Long. -/
abbrev State.MarksShort (s : State) : Prop :=
  ∀ i < 36, i % 2 = 0 → i < s.bbLen.toNat → bbRead s.bb i = false

/-- R38 (8), with the lower bound of `cfg_clr_ticks` in R20. -/
abbrev State.CountersBounded (s : State) : Prop :=
  s.idleTicks.toNat ≤ 3 ∧ s.clrTicks.toNat < s.cfgClrTicks.toNat ∧ 1 ≤ s.cfgClrTicks.toNat

/-- The keys the registry holds, slot by slot: the set S of R190 as a list. -/
def heldKeys (reg : List Slot) : List (BitVec 16) := (reg.filter fun sl => sl.valid).map fun sl => sl.key

/-- R38 (9): no two valid slots hold the same key. -/
abbrev State.KeysDistinct (s : State) : Prop := (heldKeys s.reg).Nodup

/-- R38 (10). -/
abbrev State.FrameBounded (s : State) : Prop := s.resSys.toNat ≤ 15 ∧ s.resAddr.toNat ≤ 63

/-- All ten invariants of R38. -/
structure State.Inv (s : State) : Prop where
  noFault : s.NoFault
  frameWaits : s.FrameWaits
  restEmpty : s.RestEmpty
  leadEmpty : s.LeadEmpty
  preambleCounts : s.PreambleCounts
  fieldCounts : s.FieldCounts
  marksShort : s.MarksShort
  countersBounded : s.CountersBounded
  keysDistinct : s.KeysDistinct
  frameBounded : s.FrameBounded

/-- The checks of R216 that a command with no need of INIT passes. -/
abbrev State.Live (s : State) : Prop := s.fault = false

/-- The checks of R216 that EDGE and TICK pass. -/
abbrev State.Active (s : State) : Prop := s.fault = false ∧ s.configured = true

/-- The states a machine of a legal build reaches from power-on reset, whatever the environment presents, in whatever
order (R244, R260). -/
inductive Reachable : State → Prop where
  | por (b : Build) (hb : b.wf) (inbox : List Stimulus) : Reachable { State.por b with inbox := inbox }
  | step (s t : State) (hs : Reachable s) (h : step s = .next t) : Reachable t

/-- The stimuli that present a list of commands. -/
def presented (is : List Instr) : List Stimulus := is.map fun i => .command (encode i)

/-- The advisory role that issues a command (R246); the block enforces none. -/
inductive Context where
  | interrupt | ordinary | none
  deriving DecidableEq, Repr

/-- R246: the source context of each command. -/
def contextOf : Instr → Context
  | .nop => .none
  | .init _ => .ordinary
  | .edge _ => .interrupt
  | .tick => .interrupt
  | .poll => .ordinary
  | .disable _ _ => .ordinary
  | .enable _ _ => .ordinary
  | .contains _ _ => .ordinary
  | .readFrame => .ordinary
  | .readStatus => .none
  | .reservedAB _ _ => .none
  | .reservedCF _ _ => .none

end Sys2Proof.Machine
end

