-- ==== Sys2Proof/Certificates/Slice0/Obligations.lean ====
section
/-! DEFINITION. The statements of this row, from the numbered rules of spec/. Each docstring names the rule. -/

open Sys2Proof Sys2Proof.Machine

/-! ## Words and commands -/

/-- Every bit of a well-formed instruction survives its encoding (spec/30_encoding.md section 2). -/
def Obligations.DecodeReadsBackEveryEncoding : Prop :=
  ∀ i : Instr, i.wf = true → decode (encode i) = .command i

/-- A word that decodes is the encoding of what it decodes to, so no two words spell one instruction
(spec/30_encoding.md section 2). -/
def Obligations.EncodeWritesBackEveryDecodedWord : Prop :=
  ∀ (w : Word) (i : Instr), decode w = .command i → i.wf = true ∧ encode i = w

/-- R74, by its field conditions and by the masks of the opcode table. -/
def Obligations.LegalWordsAreTheTableRows : Prop :=
  ∀ w : Word,
    ((∃ i : Instr, decode w = .command i ∧ i.isCommand = true) ↔
      (w.extractLsb' 28 4).toNat ≤ 9 ∧ w.extractLsb' 24 4 = 0 ∧
        ((w.extractLsb' 28 4).toNat ∈ [0x0, 0x3, 0x4, 0x8, 0x9] → w.extractLsb' 0 24 = 0) ∧
        ((w.extractLsb' 28 4).toNat ∈ [0x2, 0x5, 0x6, 0x7] → w.extractLsb' 16 8 = 0)) ∧
    ((∃ i : Instr, decode w = .command i ∧ i.isCommand = true) ↔ ∃ r ∈ commandRows, w &&& r.mask = r.pattern)

/-- R85: no word matches two rows of the opcode table, and the RESERVED rows are the opcodes 0xA to 0xF. -/
def Obligations.OpcodeTableRowsNeverOverlap : Prop :=
  ∀ w : Word,
    ((commandRows ++ reservedRows).Pairwise fun a b => ¬(w &&& a.mask = a.pattern ∧ w &&& b.mask = b.pattern)) ∧
    ((∃ r ∈ reservedRows, w &&& r.mask = r.pattern) ↔ 0xA ≤ (w.extractLsb' 28 4).toNat)

/-- The words of R83 of the commands with operands. -/
def Obligations.AssembledWordsOfOperandCommands : Prop :=
  (∀ ivl : BitVec 24, encode (.init ivl) = 0x10000000#32 ||| ivl.setWidth 32) ∧
  (∀ dt : BitVec 16, encode (.edge dt) = 0x20000000#32 ||| dt.setWidth 32) ∧
  (∀ s c : BitVec 8, encode (.disable s c) = 0x50000000#32 ||| s.setWidth 32 <<< 8 ||| c.setWidth 32) ∧
  (∀ s c : BitVec 8, encode (.enable s c) = 0x60000000#32 ||| s.setWidth 32 <<< 8 ||| c.setWidth 32) ∧
  (∀ s c : BitVec 8, encode (.contains s c) = 0x70000000#32 ||| s.setWidth 32 <<< 8 ||| c.setWidth 32)

/-- Words written out from R72 and R83 decode to the commands they stand for, one of each opcode. -/
def Obligations.WrittenWordsDecode : Prop :=
  decode 0x00000000#32 = .command .nop ∧ decode 0x100186A0#32 = .command (.init 100000) ∧
  decode 0x2000001A#32 = .command (.edge 26) ∧ decode 0x30000000#32 = .command .tick ∧
  decode 0x40000000#32 = .command .poll ∧ decode 0x50000D01#32 = .command (.disable 13 1) ∧
  decode 0x60000D01#32 = .command (.enable 13 1) ∧ decode 0x7000010D#32 = .command (.contains 1 13) ∧
  decode 0x80000000#32 = .command .readFrame ∧ decode 0x90000000#32 = .command .readStatus

/-- A step at a presented word that decodes takes the word off the stream and is `exec` of the instruction
(R5, R216; the stream is the model's own, notes/assumptions/1.md). -/
def Obligations.PresentedWordRunsAsItsCommand : Prop :=
  ∀ (s : State) (w : Word) (rest : List Stimulus) (i : Instr), s.inbox = .command w :: rest → decode w = .command i →
    step s = exec i { s with inbox := rest }

/-- R214: a word that matches no command row answers ILLEGAL and changes no register. -/
def Obligations.IllegalWordChangesNothing : Prop :=
  ∀ (s : State) (w : Word) (rest : List Stimulus), s.Live → s.inbox = .command w :: rest →
    (∀ r ∈ commandRows, w &&& r.mask ≠ r.pattern) →
    step s = .next { s with inbox := rest, resp := some 0x20000000#32 }

/-- R75, R214, as the two RESERVED rows of the opcode table. -/
def Obligations.ReservedOpcodesAnswerIllegal : Prop :=
  ∀ (op : BitVec 4) (rest : BitVec 28) (s : State), s.Live →
    exec (.reservedAB op rest) s = .next { s with resp := some 0x20000000#32 } ∧
    exec (.reservedCF op rest) s = .next { s with resp := some 0x20000000#32 }

/-- The model's own choice (notes/assumptions/1.md, from R5): with nothing presented a step changes no register. -/
def Obligations.NothingPresentedChangesNothing : Prop :=
  ∀ s : State, s.inbox = [] → step s = .next { s with resp := none }

/-- R71: the shape of every response, with the STATUS values of R77. -/
def Obligations.EveryCommandReturnsOneResponseWord : Prop :=
  ∀ (s t : State) (w : Word) (rest : List Stimulus), s.inbox = .command w :: rest → step s = .next t →
    ∃ r : Word, t.resp = some r ∧ r.extractLsb' 24 4 = 0 ∧ (r.extractLsb' 28 4).toNat ≤ 4 ∧
      ((r.extractLsb' 28 4).toNat ∈ [2, 3, 4] → r.extractLsb' 0 24 = 0)

/-- The model's own form: `exec` of every instruction and `step` in every state answer a next state. That a fault of the block
is a state it enters, and so no fault or refusal of the interface, is deduced from R71, R214 and R238
(notes/assumptions/9.md); that a step with nothing presented has a next state is the model's choice
(notes/assumptions/1.md). -/
def Obligations.EveryStepHasANextState : Prop :=
  (∀ (i : Instr) (s : State), ∃ t, exec i s = .next t) ∧ (∀ s : State, ∃ t, step s = .next t)

/-! ## Dispatch, faults and reset -/

/-- R215, R240: while faulted every word but READ_STATUS answers FAULTED, READ_STATUS answers too, no word changes a
register, and a step ends the condition only by taking a power-on reset. -/
def Obligations.FaultedBlockRefusesAllButReadStatus : Prop :=
  ∀ s : State, s.fault = true →
    (∀ (w : Word) (rest : List Stimulus), s.inbox = .command w :: rest →
      (w ≠ 0x90000000#32 → step s = .next { s with inbox := rest, resp := some 0x30000000#32 }) ∧
      (w = 0x90000000#32 → ∃ r, step s = .next { s with inbox := rest, resp := some r })) ∧
    (∀ t : State, step s = .next t → t.fault = false → ∃ rest, s.inbox = .powerOnReset :: rest)

/-- R101, R141, R237: EDGE and TICK before INIT. -/
def Obligations.EventsBeforeInitAreRefused : Prop :=
  ∀ (dt : BitVec 16) (s : State), s.Live → s.configured = false →
    exec (.edge dt) s = .next { s with resp := some 0x40000000#32 } ∧
    exec .tick s = .next { s with resp := some 0x40000000#32 }

/-- R238, R239: whatever command raises a fault, the state is the one before it but for `fault`, `fault_code` and the
response; POLL records 4 and EDGE 5, and no other command faults (R216). -/
def Obligations.FaultsArePrecise : Prop :=
  ∀ (i : Instr) (s t : State), s.Live → exec i s = .next t → t.fault = true →
    (t = { s with fault := true, faultCode := 4, resp := some 0x30000000#32 } ∧ i = .poll) ∨
    (t = { s with fault := true, faultCode := 5, resp := some 0x30000000#32 } ∧ ∃ dt, i = .edge dt)

/-- R260: what power-on reset leaves, register by register, and that it has the invariants of R38. -/
def Obligations.PowerOnResetState : Prop :=
  ∀ (s : State) (rest : List Stimulus), 1 ≤ s.tovfUs → s.inbox = .powerOnReset :: rest →
    ∃ (t : State) (q : Nat), step s = .next t ∧
      t.phase = .idle ∧ t.preCnt = 0 ∧ t.bbLen = 0 ∧ (∀ i < 36, bbRead t.bb i = false) ∧
      t.frameReady = false ∧ t.clearReq = false ∧ t.avail = false ∧ t.idleTicks = 0 ∧ t.clrTicks = 0 ∧
      t.resSys = 0 ∧ t.resAddr = 0 ∧ t.resCmd = 0 ∧
      (∀ sl ∈ t.reg, sl.valid = false ∧ sl.key = 0) ∧ t.configured = false ∧
      (83000 ≤ q * s.tovfUs ∧ ∀ r, 83000 ≤ r * s.tovfUs → q ≤ r) ∧ t.cfgClrTicks.toNat = q ∧
      t.fault = false ∧ t.faultCode = 0 ∧ frdyOutput t = false ∧ faultOutput t = false ∧ t.Inv ∧
      t.build = s.build ∧ t.inbox = rest ∧ t.resp = none

/-- R261: what INIT leaves is the power-on state but for `configured`, the clear interval, the registry and the
fault registers. -/
def Obligations.InitLeavesPowerOnStateButConfiguration : Prop :=
  ∀ (ivl : BitVec 24) (s : State), s.Live →
    exec (.init ivl) s = .next
      { State.por s.build with
        configured := true, cfgClrTicks := BitVec.ofNat 24 (clrTicksFor s.tovfUs ivl.toNat), reg := s.reg
        faultCode := s.faultCode, inbox := s.inbox, resp := some 0#32 }

/-! ## NOP, INIT, READ_STATUS -/

/-- R210. -/
def Obligations.NopOnlyAnswersOk : Prop := ∀ s : State, s.Live → exec .nop s = .next { s with resp := some 0#32 }

/-- R211 with R212: every register INIT writes, and that it writes no other. -/
def Obligations.InitZeroesBuffersAndCounters : Prop :=
  ∀ (ivl : BitVec 24) (s : State), s.Live → 1 ≤ s.tovfUs →
    ∃ q : Nat, (max ivl.toNat 83000 ≤ q * s.tovfUs ∧ ∀ r, max ivl.toNat 83000 ≤ r * s.tovfUs → q ≤ r) ∧ q < 2 ^ 24 ∧
      exec (.init ivl) s = .next
        { s with
          phase := .idle, preCnt := 0, bbLen := 0, bb := bbZero, frameReady := false, idleTicks := 0, clrTicks := 0
          clearReq := false, avail := false, resSys := 0, resAddr := 0, resCmd := 0
          cfgClrTicks := BitVec.ofNat 24 q, configured := true, resp := some 0#32 }

/-- R212: ClrTicks is the least number of watchdog ticks, at least 1, that lasts the requested interval raised to the
floor; it fits the register; and every request up to the floor selects the default. -/
def Obligations.ClearIntervalRoundsUpToTicks : Prop :=
  ∀ tovfUs ivl : Nat, 1 ≤ tovfUs → ivl < 2 ^ 24 →
    max ivl 83000 ≤ clrTicksFor tovfUs ivl * tovfUs ∧
    (∀ r, max ivl 83000 ≤ r * tovfUs → clrTicksFor tovfUs ivl ≤ r) ∧
    1 ≤ clrTicksFor tovfUs ivl ∧ clrTicksFor tovfUs ivl ≤ 2 ^ 24 - 1 ∧
    (ivl ≤ 83000 → clrTicksFor tovfUs ivl = clrTicksFor tovfUs 0)

/-- R213: READ_STATUS changes no register, runs also while faulted, and its DATA holds each field of R82 at its bits. -/
def Obligations.ReadStatusPacksTheStatusWord : Prop :=
  ∀ s : State, ∃ r : Word, exec .readStatus s = .next { s with resp := some r } ∧
    r.extractLsb' 24 8 = 0 ∧ r.extractLsb' 20 4 = s.faultCode ∧ r.extractLsb' 14 6 = s.preCnt ∧
    r.extractLsb' 8 6 = s.bbLen ∧ r.getLsbD 7 = s.fault ∧ r.getLsbD 6 = s.clearReq ∧ r.getLsbD 5 = s.avail ∧
    r.getLsbD 4 = s.frameReady ∧ r.extractLsb' 0 4 = s.phase.code

/-! ## EDGE -/

/-- R104: the window test is a range of `dt` with both bounds rounded into it. -/
def Obligations.WindowTestIsATickRange : Prop :=
  ∀ (tickUs n : Nat) (dt : BitVec 16), 1 ≤ tickUs →
    (inWin tickUs dt n = true ↔ n - 256 ≤ dt.toNat * tickUs ∧ dt.toNat * tickUs ≤ n + 256) ∧
    (inWin tickUs dt n = true ↔ ceilDiv (n - 256) tickUs ≤ dt.toNat ∧ dt.toNat ≤ (n + 256) / tickUs)

/-- The tick columns of R105 (also R8): the `dt` each class accepts at TICK_US = 128 and at TICK_US = 1. -/
def Obligations.WindowTicksAtReferenceAndUnitResolution : Prop :=
  ∀ dt : BitVec 16,
    (inWin 128 dt 3380 = true ↔ 25 ≤ dt.toNat ∧ dt.toNat ≤ 28) ∧
    (inWin 128 dt 1690 = true ↔ 12 ≤ dt.toNat ∧ dt.toNat ≤ 15) ∧
    (inWin 128 dt 420 = true ↔ 2 ≤ dt.toNat ∧ dt.toNat ≤ 5) ∧
    (inWin 128 dt 1270 = true ↔ 8 ≤ dt.toNat ∧ dt.toNat ≤ 11) ∧
    (inWin 1 dt 3380 = true ↔ 3124 ≤ dt.toNat ∧ dt.toNat ≤ 3636) ∧
    (inWin 1 dt 1690 = true ↔ 1434 ≤ dt.toNat ∧ dt.toNat ≤ 1946) ∧
    (inWin 1 dt 420 = true ↔ 164 ≤ dt.toNat ∧ dt.toNat ≤ 676) ∧
    (inWin 1 dt 1270 = true ↔ 1014 ≤ dt.toNat ∧ dt.toNat ≤ 1526)

/-- R264 (1) with D29: an elapsed count at or above 65535 is delivered as 65535 and lies in no window. -/
def Obligations.SaturatedEdgeCountIsNeverAccepted : Prop :=
  ∀ (tickUs elapsed n : Nat), 1 ≤ tickUs → 65535 ≤ elapsed → n ≤ 3380 → inWin tickUs (adapterDt elapsed) n = false

/-- R103, with the counter reset of R102: an edge while a frame waits. -/
def Obligations.EdgeWhileFrameWaitsIsDropped : Prop :=
  ∀ (dt : BitVec 16) (s : State), s.Active → s.frameReady = true →
    exec (.edge dt) s = .next { s with idleTicks := 0, clrTicks := 0, resp := some 0#32 }

/-- R109, R117: any edge in Idle or Cooldown starts a capture. -/
def Obligations.EdgeAtRestStartsACapture : Prop :=
  ∀ (dt : BitVec 16) (s : State), s.Active → s.frameReady = false → (s.phase = .idle ∨ s.phase = .cooldown) →
    exec (.edge dt) s = .next
      { s with phase := .leadingPulse, bbLen := 0, preCnt := 0, idleTicks := 0, clrTicks := 0, resp := some 0#32 }

/-- R110: the leading mark. -/
def Obligations.LeadingPulseTakesOnlyTheLeadingMark : Prop :=
  ∀ (dt : BitVec 16) (s : State), s.Active → s.frameReady = false → s.phase = .leadingPulse →
    exec (.edge dt) s = .next
      (if 3124 ≤ dt.toNat * s.tickUs ∧ dt.toNat * s.tickUs ≤ 3636 then
        { s with phase := .leadingSpace, idleTicks := 0, clrTicks := 0, resp := some 0#32 }
      else { s with phase := .idle, bbLen := 0, preCnt := 0, idleTicks := 0, clrTicks := 0, resp := some 0#32 })

/-- R111: the leading gap. -/
def Obligations.LeadingSpaceTakesOnlyTheLeadingGap : Prop :=
  ∀ (dt : BitVec 16) (s : State), s.Active → s.frameReady = false → s.phase = .leadingSpace →
    exec (.edge dt) s = .next
      (if 1434 ≤ dt.toNat * s.tickUs ∧ dt.toNat * s.tickUs ≤ 1946 then
        { s with phase := .preamble, preCnt := 0, idleTicks := 0, clrTicks := 0, resp := some 0#32 }
      else { s with phase := .idle, bbLen := 0, preCnt := 0, idleTicks := 0, clrTicks := 0, resp := some 0#32 })

/-- R112, with the classifier of R106 and the mark rule of R107: a Short half-interval, or a Long one at odd
`pre_cnt`, advances the counter and the milestones 40, 44, 60 change the phase. The premise on `pre_cnt` is implied
by the legal values 0..60 of R20 (invariant `PreambleCounts`); at 63 the sum is a free value
(notes/assumptions/5.md). -/
def Obligations.PreambleCountsHalfIntervals : Prop :=
  ∀ (dt : BitVec 16) (s : State), s.Active → s.frameReady = false → s.phase = .preamble → s.preCnt.toNat < 63 →
    exec (.edge dt) s = .next
      (if (164 ≤ dt.toNat * s.tickUs ∧ dt.toNat * s.tickUs ≤ 676) ∨
          (s.preCnt.toNat % 2 = 1 ∧ 1014 ≤ dt.toNat * s.tickUs ∧ dt.toNat * s.tickUs ≤ 1526) then
        { s with
          preCnt := s.preCnt + 1
          phase := if s.preCnt.toNat + 1 = 40 then .systemCodeField else if s.preCnt.toNat + 1 = 44 then .addressField
            else if s.preCnt.toNat + 1 = 60 then .finalPulse else .preamble
          idleTicks := 0, clrTicks := 0, resp := some 0#32 }
      else { s with phase := .idle, bbLen := 0, preCnt := 0, idleTicks := 0, clrTicks := 0, resp := some 0#32 })

/-- R113, R114, R115 with the append of R118 and its overrun fault (R235): the three field phases, each with its limit
and the phase it leaves to. The one entry written is entry `bb_len`; it is 1 exactly for a half-interval that is not
Short. -/
def Obligations.FieldPhasesAppendOneEntry : Prop :=
  ∀ (dt : BitVec 16) (s : State) (limit : Nat) (next : Phase), s.Active → s.frameReady = false →
    (s.phase, limit, next) ∈ [(Phase.systemCodeField, 8, Phase.preamble), (Phase.addressField, 20, Phase.commandField),
      (Phase.commandField, 36, Phase.preamble)] →
    exec (.edge dt) s = .next
      (if (164 ≤ dt.toNat * s.tickUs ∧ dt.toNat * s.tickUs ≤ 676) ∨
          (s.bbLen.toNat % 2 = 1 ∧ 1014 ≤ dt.toNat * s.tickUs ∧ dt.toNat * s.tickUs ≤ 1526) then
        (if 36 ≤ s.bbLen.toNat then { s with fault := true, faultCode := 5, resp := some 0x30000000#32 }
        else
          { s with
            bb := bbWrite s.bb s.bbLen.toNat (decide ¬(164 ≤ dt.toNat * s.tickUs ∧ dt.toNat * s.tickUs ≤ 676))
            bbLen := s.bbLen + 1, phase := if s.bbLen.toNat + 1 = limit then next else s.phase
            idleTicks := 0, clrTicks := 0, resp := some 0#32 })
      else { s with phase := .idle, bbLen := 0, preCnt := 0, idleTicks := 0, clrTicks := 0, resp := some 0#32 })

/-- R116: the final mark raises `frame_ready`. -/
def Obligations.FinalPulseRaisesFrameReady : Prop :=
  ∀ (dt : BitVec 16) (s : State), s.Active → s.frameReady = false → s.phase = .finalPulse →
    exec (.edge dt) s = .next
      (if 164 ≤ dt.toNat * s.tickUs ∧ dt.toNat * s.tickUs ≤ 676 then
        { s with
          phase := .cooldown, frameReady := true, preCnt := 0, idleTicks := 0, clrTicks := 0, resp := some 0#32 }
      else { s with phase := .idle, bbLen := 0, preCnt := 0, idleTicks := 0, clrTicks := 0, resp := some 0#32 })

/-- R51, R56, R118: the frame of EDGE for every phase: the buffer changes at most at entry `bb_len`, and only in a field
phase; the consumer's registers, the registry and the configuration do not change. -/
def Obligations.EdgeFrame : Prop :=
  ∀ (dt : BitVec 16) (s t : State), exec (.edge dt) s = .next t →
    (∀ j < 36, j ≠ s.bbLen.toNat ∨ s.phase ∉ [Phase.systemCodeField, Phase.addressField, Phase.commandField] →
      bbRead t.bb j = bbRead s.bb j) ∧
    t.clearReq = s.clearReq ∧ t.avail = s.avail ∧ t.resSys = s.resSys ∧ t.resAddr = s.resAddr ∧ t.resCmd = s.resCmd ∧
    t.reg = s.reg ∧ t.configured = s.configured ∧ t.cfgClrTicks = s.cfgClrTicks ∧ t.build = s.build ∧ t.inbox = s.inbox

/-- R120: a frame of 100 edges from Idle or Cooldown, each of its 99 half-intervals anywhere in its own window, is captured
whole: the 18 payload bits stand in the space entries, the mark entries are 0, the preamble is not stored, and nothing
else changes. -/
def Obligations.IntactFrameIsCaptured : Prop :=
  ∀ (e0 : BitVec 16) (dts : List (BitVec 16)) (pre : BitVec 30) (sys : BitVec 4) (addr : BitVec 6) (cmd : BitVec 8)
    (s : State) (rest : List Stimulus), s.Active → s.frameReady = false → (s.phase = .idle ∨ s.phase = .cooldown) →
    List.Forall₂ (fun dt c => IntervalClass.admits s.tickUs dt c = true) dts (frameClasses pre sys addr cmd) →
    s.inbox = presented ((e0 :: dts).map .edge) ++ rest →
    ∃ bb : Vector Bool 36,
      Host.Core.run Sys2Proof.core 100 s = .next
        { s with
          phase := .cooldown, preCnt := 0, bbLen := 36, bb := bb, frameReady := true, idleTicks := 0, clrTicks := 0
          inbox := rest, resp := some 0#32 } ∧
      (∀ j < 18, bbRead bb (2 * j) = false) ∧
      (∀ j < 4, bbRead bb (2 * j + 1) = sys.getLsbD j) ∧
      (∀ j < 6, bbRead bb (8 + 2 * j + 1) = addr.getLsbD j) ∧
      (∀ j < 8, bbRead bb (20 + 2 * j + 1) = cmd.getLsbD j)

/-- R120, R163, R164, R165: such a frame, then one POLL. If the previous call reported the same pair and the pair is in the
registry, POLL answers 0 and the Decoded Frame stays; otherwise it answers 1 and the Decoded Frame is the payload, least
significant bit first. -/
def Obligations.IntactFrameIsReportedAndDecoded : Prop :=
  ∀ (e0 : BitVec 16) (dts : List (BitVec 16)) (pre : BitVec 30) (sys : BitVec 4) (addr : BitVec 6) (cmd : BitVec 8)
    (s : State) (rest : List Stimulus), s.Active → s.frameReady = false → (s.phase = .idle ∨ s.phase = .cooldown) →
    List.Forall₂ (fun dt c => IntervalClass.admits s.tickUs dt c = true) dts (frameClasses pre sys addr cmd) →
    s.inbox = presented ((e0 :: dts).map .edge ++ [.poll]) ++ rest →
    ∃ t : State, Host.Core.run Sys2Proof.core 101 s = .next t ∧ t.avail = true ∧ t.frameReady = false ∧ t.bbLen = 0 ∧
      t.reg = s.reg ∧ t.inbox = rest ∧
      (if s.avail = true ∧ sys.setWidth 8 = s.resSys ∧ cmd = s.resCmd ∧
          ({ valid := true, key := sys.setWidth 8 ++ cmd } : Slot) ∈ s.reg then
        t.resp = some 0#32 ∧ t.resSys = s.resSys ∧ t.resAddr = s.resAddr ∧ t.resCmd = s.resCmd
      else
        t.resp = some 1#32 ∧ t.resSys = sys.setWidth 8 ∧ t.resAddr = addr.setWidth 8 ∧ t.resCmd = cmd)

/-- R120: fewer than 100 edges from rest never raise `frame_ready`, whatever their intervals. -/
def Obligations.FrameNeedsAHundredEdges : Prop :=
  ∀ (dts : List (BitVec 16)) (s : State) (rest : List Stimulus), s.Inv → s.frameReady = false →
    (s.phase = .idle ∨ s.phase = .cooldown) → dts.length < 100 →
    s.inbox = presented (dts.map .edge) ++ rest →
    ∃ t : State, Host.Core.run Sys2Proof.core dts.length s = .next t ∧ t.frameReady = false ∧ t.inbox = rest

/-! ## TICK -/

/-- R140, R143: one TICK, every register it writes. -/
def Obligations.TickCountsAndTimesOut : Prop :=
  ∀ s : State, s.Active →
    exec .tick s = .next
      { s with
        idleTicks := if s.idleTicks.toNat < 3 then s.idleTicks + 1 else s.idleTicks
        phase := if s.idleTicks.toNat = 2 then .idle else s.phase
        bbLen := if s.idleTicks.toNat = 2 ∧ s.phase ≠ .idle ∧ s.phase ≠ .cooldown then 0 else s.bbLen
        preCnt := if s.idleTicks.toNat = 2 ∧ s.phase ≠ .idle ∧ s.phase ≠ .cooldown then 0 else s.preCnt
        avail := if s.idleTicks.toNat = 2 then false else s.avail
        clrTicks := if s.cfgClrTicks.toNat ≤ s.clrTicks.toNat + 1 then 0 else s.clrTicks + 1
        clearReq := if s.cfgClrTicks.toNat ≤ s.clrTicks.toNat + 1 then true else s.clearReq
        resp := some 0#32 }

/-- R145: the two halves of a TICK may be run in either order. -/
def Obligations.TimeoutAndClearPartsCommute : Prop := ∀ s : State, countClear (countIdle s) = countIdle (countClear s)

/-- R146: the third TICK after an edge aborts the capture; the first two leave it. -/
def Obligations.ThirdSilentTickAbortsTheCapture : Prop :=
  ∀ (s : State) (rest : List Stimulus), s.Active → s.idleTicks = 0 → s.phase.capturing = true →
    s.inbox = presented [.tick, .tick, .tick] ++ rest →
    (∃ t, Host.Core.run Sys2Proof.core 2 s = .next t ∧ t.phase = s.phase ∧ t.bbLen = s.bbLen ∧ t.preCnt = s.preCnt ∧
      t.bb = s.bb ∧ t.avail = s.avail) ∧
    (∃ t, Host.Core.run Sys2Proof.core 3 s = .next t ∧ t.phase = .idle ∧ t.bbLen = 0 ∧ t.preCnt = 0 ∧ t.bb = s.bb ∧
      t.avail = false ∧ t.idleTicks = 3 ∧ t.frameReady = s.frameReady)

/-- R147: n TICKs after the counter's last reset, with no edge between, have requested a clear exactly if
n ≥ `cfg_clr_ticks`, and the counter stands at the remainder. -/
def Obligations.ClearIsRequestedPeriodically : Prop :=
  ∀ (n : Nat) (s : State) (rest : List Stimulus), s.Active → s.clrTicks = 0 → s.clearReq = false →
    1 ≤ s.cfgClrTicks.toNat → s.inbox = presented (List.replicate n .tick) ++ rest →
    ∃ t : State, Host.Core.run Sys2Proof.core n s = .next t ∧ t.inbox = rest ∧
      t.clearReq = decide (s.cfgClrTicks.toNat ≤ n) ∧ t.clrTicks.toNat = n % s.cfgClrTicks.toNat

/-- R276, R142: once `idle_ticks` is 3 no number of further TICKs times out again. -/
def Obligations.SilenceTimesOutOnlyOnce : Prop :=
  ∀ (n : Nat) (s : State) (rest : List Stimulus), s.Active → s.idleTicks = 3 →
    s.inbox = presented (List.replicate n .tick) ++ rest →
    ∃ t : State, Host.Core.run Sys2Proof.core n s = .next t ∧ t.inbox = rest ∧ t.idleTicks = 3 ∧ t.avail = s.avail ∧
      t.phase = s.phase ∧ t.bbLen = s.bbLen ∧ t.preCnt = s.preCnt ∧ t.frameReady = s.frameReady

/-- R272, first row: an EDGE and the TICK that would time out, in both orders, in every phase of a capture. The premise of
the second order keeps the overrun fault out (R235): it is implied by R38 (6), the invariant `FieldCounts`. -/
def Obligations.EdgeAgainstTimeoutDependsOnOrder : Prop :=
  ∀ (dt : BitVec 16) (s : State) (rest : List Stimulus), s.Active → s.frameReady = false → s.idleTicks = 2 →
    s.phase.capturing = true →
    (s.inbox = presented [.tick, .edge dt] ++ rest →
      ∃ t, Host.Core.run Sys2Proof.core 2 s = .next t ∧ t.phase = .leadingPulse ∧ t.bbLen = 0 ∧ t.preCnt = 0 ∧
        t.avail = false ∧ t.idleTicks = 0) ∧
    ((s.phase ∈ [Phase.systemCodeField, Phase.addressField, Phase.commandField] → s.bbLen.toNat < 36) →
      s.inbox = presented [.edge dt, .tick] ++ rest →
      ∃ t u, exec (.edge dt) { s with inbox := presented [.tick] ++ rest } = .next u ∧
        Host.Core.run Sys2Proof.core 2 s = .next t ∧ t.phase = u.phase ∧ t.bbLen = u.bbLen ∧ t.preCnt = u.preCnt ∧
        t.frameReady = u.frameReady ∧ t.bb = u.bb ∧ t.avail = s.avail ∧ t.idleTicks = 1)

/-! ## POLL and READ_FRAME -/

/-- R163, R164, R165, R168: a waiting frame is consumed; it is suppressed or replaces the Decoded Frame. The three
fields are the space entries, bit 0 first. -/
def Obligations.PollConsumesTheWaitingFrame : Prop :=
  ∀ (s : State) (sys addr cmd : BitVec 8), s.Live → s.frameReady = true → s.bbLen = 36 →
    sys = (BitVec.ofBool (bbRead s.bb 7) ++ BitVec.ofBool (bbRead s.bb 5) ++ BitVec.ofBool (bbRead s.bb 3)
      ++ BitVec.ofBool (bbRead s.bb 1)).setWidth 8 →
    addr = (BitVec.ofBool (bbRead s.bb 19) ++ BitVec.ofBool (bbRead s.bb 17) ++ BitVec.ofBool (bbRead s.bb 15)
      ++ BitVec.ofBool (bbRead s.bb 13) ++ BitVec.ofBool (bbRead s.bb 11) ++ BitVec.ofBool (bbRead s.bb 9)).setWidth 8 →
    cmd = BitVec.ofBool (bbRead s.bb 35) ++ BitVec.ofBool (bbRead s.bb 33) ++ BitVec.ofBool (bbRead s.bb 31)
      ++ BitVec.ofBool (bbRead s.bb 29) ++ BitVec.ofBool (bbRead s.bb 27) ++ BitVec.ofBool (bbRead s.bb 25)
      ++ BitVec.ofBool (bbRead s.bb 23) ++ BitVec.ofBool (bbRead s.bb 21) →
    exec .poll s = .next
      (if sys = s.resSys ∧ cmd = s.resCmd ∧ ({ valid := true, key := sys ++ cmd } : Slot) ∈ s.reg ∧ s.avail = true then
        { s with frameReady := false, bbLen := 0, resp := some 0#32 }
      else
        { s with
          avail := true, frameReady := false, bbLen := 0, resSys := sys, resAddr := addr, resCmd := cmd
          resp := some 1#32 })

/-- R234, R238: POLL at a malformed frame-ready state. -/
def Obligations.PollFaultsOnMalformedFrame : Prop :=
  ∀ s : State, s.Live → s.frameReady = true → s.bbLen ≠ 36 →
    exec .poll s = .next { s with fault := true, faultCode := 4, resp := some 0x30000000#32 }

/-- R166, R167, with the clear service of R161: POLL with no frame waiting. -/
def Obligations.PollWithoutFrameReportsTheLevel : Prop :=
  ∀ s : State, s.Live → s.frameReady = false →
    exec .poll s = .next
      { s with
        bb := if s.clearReq = true ∧ (s.phase = .idle ∨ s.phase = .cooldown) then bbZero else s.bb
        bbLen := if s.clearReq = true ∧ (s.phase = .idle ∨ s.phase = .cooldown) then 0 else s.bbLen
        clearReq := if s.phase = .idle ∨ s.phase = .cooldown then false else s.clearReq
        resp := some (if s.avail = true ∧ ({ valid := true, key := s.resSys ++ s.resCmd } : Slot) ∉ s.reg then 1#32
          else 0#32) }

/-- R161: the clear service runs exactly when a request is pending, no capture is in progress and no frame waits;
otherwise the request and the entries stay. -/
def Obligations.ClearServiceRunsOnlyAtRest : Prop :=
  ∀ s t : State, s.Live → exec .poll s = .next t →
    (s.clearReq = true ∧ (s.phase = .idle ∨ s.phase = .cooldown) ∧ s.frameReady = false →
      t.clearReq = false ∧ t.bbLen = 0 ∧ ∀ i < 36, bbRead t.bb i = false) ∧
    (¬(s.clearReq = true ∧ (s.phase = .idle ∨ s.phase = .cooldown) ∧ s.frameReady = false) →
      t.clearReq = s.clearReq ∧ ∀ i < 36, bbRead t.bb i = bbRead s.bb i)

/-- R268: a clear request that is pending when POLL consumes a frame stays pending, and the next POLL serves it. -/
def Obligations.PendingClearWaitsForTheNextPoll : Prop :=
  ∀ (s : State) (rest : List Stimulus), s.Live → s.frameReady = true → s.bbLen = 36 → s.clearReq = true →
    (s.phase = .idle ∨ s.phase = .cooldown) → s.inbox = presented [.poll, .poll] ++ rest →
    (∃ t : State, Host.Core.run Sys2Proof.core 1 s = .next t ∧ t.frameReady = false ∧ t.clearReq = true ∧ t.bb = s.bb) ∧
    ∃ t : State, Host.Core.run Sys2Proof.core 2 s = .next t ∧ t.clearReq = false ∧ ∀ i < 36, bbRead t.bb i = false

/-- R169, R81. -/
def Obligations.ReadFrameReturnsTheDecodedFrame : Prop :=
  ∀ s : State, s.Live → ∃ r : Word, exec .readFrame s = .next { s with resp := some r } ∧
    r.extractLsb' 24 8 = 0 ∧ r.extractLsb' 16 8 = s.resSys ∧ r.extractLsb' 8 8 = s.resAddr ∧ r.extractLsb' 0 8 = s.resCmd

/-! ## The registry -/

/-- R192, R195: DISABLE of a held pair, of a new pair with a free slot (the lowest takes it), and at a full registry. -/
def Obligations.DisableAddsThePairOnce : Prop :=
  ∀ (sys cmd : BitVec 8) (s : State), s.Live →
    (({ valid := true, key := sys ++ cmd } : Slot) ∈ s.reg →
      exec (.disable sys cmd) s = .next { s with resp := some 2#32 }) ∧
    (({ valid := true, key := sys ++ cmd } : Slot) ∉ s.reg → ∀ (pre post : List Slot) (sl : Slot),
      s.reg = pre ++ sl :: post → (∀ x ∈ pre, x.valid = true) → sl.valid = false →
      exec (.disable sys cmd) s = .next
        { s with reg := pre ++ { valid := true, key := sys ++ cmd } :: post, resp := some 1#32 }) ∧
    (({ valid := true, key := sys ++ cmd } : Slot) ∉ s.reg → (∀ x ∈ s.reg, x.valid = true) →
      exec (.disable sys cmd) s = .next { s with resp := some 0x10000000#32 })

/-- R193: ENABLE of a held pair clears the valid bit of its slot, the key left stale; of an absent pair, nothing. The
premise is R38 (9), an invariant of the model. -/
def Obligations.EnableRemovesThePair : Prop :=
  ∀ (sys cmd : BitVec 8) (s : State), s.Live → s.KeysDistinct →
    (∀ pre post : List Slot, s.reg = pre ++ { valid := true, key := sys ++ cmd } :: post →
      exec (.enable sys cmd) s = .next
        { s with reg := pre ++ { valid := false, key := sys ++ cmd } :: post, resp := some 1#32 } ∧
      ({ valid := true, key := sys ++ cmd } : Slot) ∉ pre ++ { valid := false, key := sys ++ cmd } :: post) ∧
    (({ valid := true, key := sys ++ cmd } : Slot) ∉ s.reg →
      exec (.enable sys cmd) s = .next { s with resp := some 0#32 })

/-- R191, R194: CONTAINS answers whether a valid slot holds the pair, and changes nothing. -/
def Obligations.ContainsTestsMembership : Prop :=
  ∀ (sys cmd : BitVec 8) (s : State), s.Live →
    exec (.contains sys cmd) s = .next
      { s with resp := some (if ({ valid := true, key := sys ++ cmd } : Slot) ∈ s.reg then 1#32 else 0#32) }

/-- R196: only DISABLE and ENABLE write the registry; power-on reset empties it. -/
def Obligations.OnlyDisableAndEnableWriteTheRegistry : Prop :=
  (∀ (i : Instr) (s t : State), exec i s = .next t → (∀ sys cmd, i ≠ .disable sys cmd ∧ i ≠ .enable sys cmd) →
    t.reg = s.reg) ∧
  (∀ (s t : State) (rest : List Stimulus), s.inbox = .powerOnReset :: rest → step s = .next t → heldKeys t.reg = [])

/-- R190: every command's response and effect depends on the registry only through the set it holds and its depth: two
machines that differ only in how the slots hold the same set stay so. -/
def Obligations.RegistryIsObservedOnlyAsASet : Prop :=
  ∀ (i : Instr) (s t s' t' : State),
    t = { s with reg := t.reg } → t.reg.length = s.reg.length → s.KeysDistinct → t.KeysDistinct →
    (∀ k, k ∈ heldKeys s.reg ↔ k ∈ heldKeys t.reg) → exec i s = .next s' → exec i t = .next t' →
    t' = { s' with reg := t'.reg } ∧ t'.reg.length = s'.reg.length ∧ s'.KeysDistinct ∧ t'.KeysDistinct ∧
      (∀ k, k ∈ heldKeys s'.reg ↔ k ∈ heldKeys t'.reg)

/-- R233: a full registry is recoverable: after an ENABLE of a held pair, the DISABLE that was refused succeeds. -/
def Obligations.FullRegistryRecoversAfterEnable : Prop :=
  ∀ (a b c d : BitVec 8) (s : State) (rest : List Stimulus), s.Live → (∀ x ∈ s.reg, x.valid = true) → s.KeysDistinct →
    ({ valid := true, key := a ++ b } : Slot) ∉ s.reg → ({ valid := true, key := c ++ d } : Slot) ∈ s.reg →
    s.inbox = presented [.disable a b, .enable c d, .disable a b] ++ rest →
    Host.Core.run Sys2Proof.core 1 s = .next
      { s with inbox := presented [.enable c d, .disable a b] ++ rest, resp := some 0x10000000#32 } ∧
    ∃ t : State, Host.Core.run Sys2Proof.core 3 s = .next t ∧ t.resp = some 1#32 ∧
      ({ valid := true, key := a ++ b } : Slot) ∈ t.reg ∧ ({ valid := true, key := c ++ d } : Slot) ∉ t.reg

/-- R197, R271: with no frame waiting, DISABLE of the stored pair makes the next POLL answer 0, and ENABLE of it makes
the next POLL answer the level. -/
def Obligations.RegistryChangeReachesTheNextPoll : Prop :=
  ∀ (s : State) (rest : List Stimulus), s.Live → s.frameReady = false → s.avail = true → s.KeysDistinct →
    (s.inbox = presented [.disable s.resSys s.resCmd, .poll] ++ rest →
      (({ valid := true, key := s.resSys ++ s.resCmd } : Slot) ∈ s.reg ∨ ∃ x ∈ s.reg, x.valid = false) →
      ∃ t, Host.Core.run Sys2Proof.core 2 s = .next t ∧ t.resp = some 0#32) ∧
    (s.inbox = presented [.enable s.resSys s.resCmd, .poll] ++ rest →
      ∃ t, Host.Core.run Sys2Proof.core 2 s = .next t ∧ t.resp = some 1#32)

/-! ## The whole machine -/

/-- R38 at power-on reset, for every legal build, whatever the environment will present. -/
def Obligations.PowerOnStateSatisfiesInvariants : Prop :=
  ∀ (b : Build) (inbox : List Stimulus), b.wf → ({ State.por b with inbox := inbox } : State).Inv

/-- R38: every step keeps all ten invariants, from every state that has them. -/
def Obligations.StepKeepsInvariants : Prop := ∀ s t : State, s.Inv → step s = .next t → t.Inv

/-- R38: every state reached from power-on reset has the ten invariants, so the block is never faulted there, and the
registry holds at most REG_DEPTH pairs. -/
def Obligations.ReachableStatesSatisfyInvariants : Prop :=
  ∀ s : State, Reachable s → s.Inv ∧ s.fault = false ∧ (heldKeys s.reg).length ≤ s.build.regDepth

/-- R20, R39: each register is written only by the commands its row of the table names (a raised fault apart, which
writes `fault` and `fault_code` alone). -/
def Obligations.OnlyListedCommandsWriteEachRegister : Prop :=
  ∀ (i : Instr) (s t : State), exec i s = .next t →
    let edge := ∃ dt, i = .edge dt
    let init := ∃ ivl, i = .init ivl
    let tick := i = .tick
    let poll := i = .poll
    (t.phase ≠ s.phase → edge ∨ tick ∨ init) ∧
    (t.preCnt ≠ s.preCnt → edge ∨ tick ∨ init) ∧
    (t.bbLen ≠ s.bbLen → edge ∨ tick ∨ poll ∨ init) ∧
    (t.bb ≠ s.bb → edge ∨ poll ∨ init) ∧
    (t.frameReady ≠ s.frameReady → edge ∨ poll ∨ init) ∧
    (t.idleTicks ≠ s.idleTicks → edge ∨ tick ∨ init) ∧
    (t.clrTicks ≠ s.clrTicks → edge ∨ tick ∨ init) ∧
    (t.clearReq ≠ s.clearReq → tick ∨ poll ∨ init) ∧
    (t.avail ≠ s.avail → tick ∨ poll ∨ init) ∧
    (t.resSys ≠ s.resSys ∨ t.resAddr ≠ s.resAddr ∨ t.resCmd ≠ s.resCmd → poll ∨ init) ∧
    (t.reg.map (fun sl => sl.valid) ≠ s.reg.map (fun sl => sl.valid) →
      ∃ sys cmd, i = .disable sys cmd ∨ i = .enable sys cmd) ∧
    (t.reg.map (fun sl => sl.key) ≠ s.reg.map (fun sl => sl.key) → ∃ sys cmd, i = .disable sys cmd) ∧
    (t.reg ≠ s.reg → ∃ sys cmd, i = .disable sys cmd ∨ i = .enable sys cmd) ∧
    (t.configured ≠ s.configured ∨ t.cfgClrTicks ≠ s.cfgClrTicks → init) ∧
    (t.fault ≠ s.fault ∨ t.faultCode ≠ s.faultCode → edge ∨ poll) ∧
    t.inbox = s.inbox

/-- R7, R37: no step changes a build parameter; the registry keeps its depth. -/
def Obligations.StepKeepsTheBuild : Prop := ∀ s t : State, step s = .next t → t.build = s.build

/-- R24: buffer entries at and above `bb_len` are never observed: two machines that differ only there stay so, whatever
the command. -/
def Obligations.StaleBufferEntriesAreNeverObserved : Prop :=
  ∀ (i : Instr) (s t s' t' : State), t = { s with bb := t.bb } →
    (∀ j < s.bbLen.toNat, bbRead t.bb j = bbRead s.bb j) → exec i s = .next s' → exec i t = .next t' →
    t' = { s' with bb := t'.bb } ∧ ∀ j < s'.bbLen.toNat, bbRead t'.bb j = bbRead s'.bb j
end

