-- ==== Sys2Proof/Laws/Decode.lean ====
section
/-! SUPPORT. The fields of a word that is written from its parts (spec/30_encoding.md R70, R72). -/

namespace Sys2Proof

theorem toNat_append_eq {n m : Nat} (x : BitVec n) (y : BitVec m) : (x ++ y).toNat = x.toNat * 2 ^ m + y.toNat := by
  rw [BitVec.toNat_append, ← Nat.shiftLeft_add_eq_or_of_lt y.isLt, Nat.shiftLeft_eq]

theorem toNat_commandWord (op : BitVec 4) (opd : BitVec 24) :
    (commandWord op opd).toNat = op.toNat * 2 ^ 28 + opd.toNat := by
  have h : (commandWord op opd).toNat = (op ++ (0#4 ++ opd)).toNat := rfl
  rw [h, toNat_append_eq, toNat_append_eq]
  simp

theorem toNat_pairOpd (sys cmd : BitVec 8) : (pairOpd sys cmd).toNat = sys.toNat * 2 ^ 8 + cmd.toNat := by
  have h : (pairOpd sys cmd).toNat = (0#8 ++ (sys ++ cmd)).toNat := rfl
  rw [h, toNat_append_eq, toNat_append_eq]
  simp

/-- A field of a word, as a number. -/
theorem toNat_field (w : Word) (lo n : Nat) : (w.extractLsb' lo n).toNat = w.toNat / 2 ^ lo % 2 ^ n := by
  rw [BitVec.extractLsb'_toNat, Nat.shiftRight_eq_div_pow]

@[simp] theorem opOf_commandWord (op : BitVec 4) (opd : BitVec 24) : opOf (commandWord op opd) = op := by
  apply BitVec.eq_of_toNat_eq
  have := opd.isLt
  have := op.isLt
  rw [opOf, toNat_field, toNat_commandWord]
  omega

@[simp] theorem rsvOf_commandWord (op : BitVec 4) (opd : BitVec 24) : rsvOf (commandWord op opd) = 0 := by
  apply BitVec.eq_of_toNat_eq
  have := opd.isLt
  rw [rsvOf, toNat_field, toNat_commandWord]
  simp only [BitVec.ofNat_eq_ofNat, BitVec.toNat_zero]
  omega

@[simp] theorem opdOf_commandWord (op : BitVec 4) (opd : BitVec 24) : opdOf (commandWord op opd) = opd := by
  apply BitVec.eq_of_toNat_eq
  have := opd.isLt
  rw [opdOf, toNat_field, toNat_commandWord]
  omega

/-- A word is its three fields (R70). -/
theorem word_fields (w : Word) :
    w.toNat = (opOf w).toNat * 2 ^ 28 + (rsvOf w).toNat * 2 ^ 24 + (opdOf w).toNat := by
  simp only [opOf, rsvOf, opdOf, toNat_field]
  have := w.isLt
  omega

/-- OPD is its reserved byte and DT (R72). -/
theorem opd_fields (w : Word) : (opdOf w).toNat = (opdHighOf w).toNat * 2 ^ 16 + (dtOf w).toNat := by
  simp only [opdHighOf, dtOf, opdOf, toNat_field]
  omega

/-- SYS and CMD are the bytes of word[15:0] (R72). -/
theorem pair_fields (w : Word) : (dtOf w).toNat = (sysOf w).toNat * 2 ^ 8 + (cmdOf w).toNat := by
  simp only [sysOf, dtOf, cmdOf, toNat_field]
  omega

theorem decodePlain_command_iff (w : Word) (i j : Instr) :
    decodePlain w i = .command j ↔ rsvOf w = 0 ∧ opdOf w = 0 ∧ i = j := by
  unfold decodePlain
  split_ifs <;> simp_all

theorem decodeNarrow_command_iff (w : Word) (i j : Instr) :
    decodeNarrow w i = .command j ↔ rsvOf w = 0 ∧ opdHighOf w = 0 ∧ i = j := by
  unfold decodeNarrow
  split_ifs <;> simp_all

theorem decodeWide_command_iff (w : Word) (i j : Instr) : decodeWide w i = .command j ↔ rsvOf w = 0 ∧ i = j := by
  unfold decodeWide
  split_ifs <;> simp_all

/-- Masking with the high `32 − k` bits compares exactly them. -/
theorem and_highMask_eq_iff (w p : Word) (k : Nat) (hp : p.toNat % 2 ^ k = 0) :
    w &&& (BitVec.allOnes 32 <<< k) = p ↔ w.toNat / 2 ^ k = p.toNat / 2 ^ k := by
  have hm : w &&& (BitVec.allOnes 32 <<< k) = (w >>> k) <<< k := by
    apply BitVec.eq_of_getLsbD_eq
    intro i hi
    by_cases hk : i < k
    · simp [-BitVec.reduceAllOnes, hk]
    · have h1 : k + (i - k) = i := by omega
      simp [-BitVec.reduceAllOnes, hk, hi, h1]
  rw [hm, ← BitVec.toNat_inj, BitVec.toNat_shiftLeft, BitVec.toNat_ushiftRight, Nat.shiftLeft_eq,
    Nat.shiftRight_eq_div_pow]
  have hlt : w.toNat / 2 ^ k * 2 ^ k < 2 ^ 32 := lt_of_le_of_lt (Nat.div_mul_le_self _ _) w.isLt
  rw [Nat.mod_eq_of_lt hlt]
  constructor
  · intro h
    rw [← h, Nat.mul_div_cancel _ (Nat.two_pow_pos k)]
  · intro h
    rw [h]
    exact Nat.div_mul_cancel (Nat.dvd_of_mod_eq_zero hp)

end Sys2Proof
end

