-- ==== Sys2Proof/Laws/Frame.lean ====
section
/-! SUPPORT. The edges of FRAME (spec/30_encoding.md R84) follow the frame layout (spec/40_acquisition.md R120): what is said
of every frame whose half-intervals lie in their windows holds of FRAME under every profile that fits the edge tick. -/

namespace Sys2Proof.Machine

/-- Each `dt` lies in the window of its class. -/
abbrev InClasses (tickUs : Nat) (dts : List (BitVec 16)) (cs : List IntervalClass) : Prop :=
  List.Forall₂ (fun dt c => IntervalClass.admits tickUs dt c = true) dts cs

theorem InClasses.append {tickUs : Nat} {ds es : List (BitVec 16)} {cs bs : List IntervalClass}
    (h : InClasses tickUs ds cs) (h' : InClasses tickUs es bs) : InClasses tickUs (ds ++ es) (cs ++ bs) :=
  List.rel_append h h'

theorem length_bitsClasses (v n : Nat) : (bitsClasses v n).length = 2 * n := by
  induction n with
  | zero => rfl
  | succ n ih => simp only [bitsClasses, bitClasses, List.length_append, ih, List.length_cons, List.length_nil]; omega

/-- R120: a frame has 99 half-intervals. -/
theorem length_frameClasses (pre : BitVec 30) (s : BitVec 4) (a : BitVec 6) (c : BitVec 8) :
    (frameClasses pre s a c).length = 99 := by
  simp [frameClasses, length_bitsClasses]

/-- The windows a fitting profile lies in. -/
theorem Profile.fits_iff (p : Profile) (tickUs : Nat) :
    p.fits tickUs = true ↔
      IntervalClass.admits tickUs p.short .short = true ∧ IntervalClass.admits tickUs p.long .long = true ∧
      IntervalClass.admits tickUs p.leadMark .leadingMark = true ∧
      IntervalClass.admits tickUs p.leadGap .leadingGap = true ∧
      IntervalClass.admits tickUs p.final .finalMark = true := by
  simp [Profile.fits, IntervalClass.admits, IntervalClass.nominalUs, and_assoc]

/-- BITS, as `dt`s in the windows of its bits. -/
theorem bitsEdges_inClasses (p : Profile) (tickUs v n : Nat) (h : p.fits tickUs = true) :
    ∃ dts, bitsEdges p v n = dts.map Instr.edge ∧ InClasses tickUs dts (bitsClasses v n) := by
  obtain ⟨hs, hl, -⟩ := (p.fits_iff tickUs).mp h
  induction n with
  | zero => exact ⟨[], rfl, .nil⟩
  | succ n ih =>
    obtain ⟨dts, he, hc⟩ := ih
    refine ⟨dts ++ [p.short, if v.testBit n then p.long else p.short], by simp [bitsEdges, bitEdges, he], hc.append ?_⟩
    cases v.testBit n
    · exact .cons hs (.cons hs .nil)
    · exact .cons hs (.cons hl .nil)

/-- FRAME under a fitting profile is a start edge and 99 edges whose `dt`s lie in the windows of the frame layout. -/
theorem frameEdges_inClasses (p : Profile) (tickUs : Nat) (pre : BitVec 30) (s : BitVec 4) (a : BitVec 6) (c : BitVec 8)
    (h : p.fits tickUs = true) :
    ∃ dts, frameEdges p pre s a c = (0xFFFF :: dts).map Instr.edge ∧ InClasses tickUs dts (frameClasses pre s a c) := by
  obtain ⟨-, -, hm, hg, hf⟩ := (p.fits_iff tickUs).mp h
  obtain ⟨d1, e1, c1⟩ := bitsEdges_inClasses p tickUs pre.toNat 20 h
  obtain ⟨d2, e2, c2⟩ := bitsEdges_inClasses p tickUs s.toNat 4 h
  obtain ⟨d3, e3, c3⟩ := bitsEdges_inClasses p tickUs (pre.toNat >>> 20) 2 h
  obtain ⟨d4, e4, c4⟩ := bitsEdges_inClasses p tickUs a.toNat 6 h
  obtain ⟨d5, e5, c5⟩ := bitsEdges_inClasses p tickUs c.toNat 8 h
  obtain ⟨d6, e6, c6⟩ := bitsEdges_inClasses p tickUs (pre.toNat >>> 22) 8 h
  refine ⟨[p.leadMark, p.leadGap] ++ d1 ++ d2 ++ d3 ++ d4 ++ d5 ++ d6 ++ [p.final], ?_, ?_⟩
  · simp [frameEdges, startEdges, leaderEdges, finalEdges, e1, e2, e3, e4, e5, e6]
  · have lead : InClasses tickUs [p.leadMark, p.leadGap] [.leadingMark, .leadingGap] := .cons hm (.cons hg .nil)
    have last : InClasses tickUs [p.final] [.finalMark] := .cons hf .nil
    exact ((((((lead.append c1).append c2).append c3).append c4).append c5).append c6).append last

end Sys2Proof.Machine
end

