-- ==== Sys2Proof/Laws/State.lean ====
section
/-! SUPPORT. One lemma per field per update, true by rfl: no later proof unfolds a record update. -/

namespace Sys2Proof.Machine

@[simp] theorem respond_phase (st : Status) (data : BitVec 24) (s : State) : (respond st data s).phase = s.phase := rfl
@[simp] theorem respond_preCnt (st : Status) (data : BitVec 24) (s : State) : (respond st data s).preCnt = s.preCnt := rfl
@[simp] theorem respond_bbLen (st : Status) (data : BitVec 24) (s : State) : (respond st data s).bbLen = s.bbLen := rfl
@[simp] theorem respond_bb (st : Status) (data : BitVec 24) (s : State) : (respond st data s).bb = s.bb := rfl
@[simp] theorem respond_frameReady (st : Status) (data : BitVec 24) (s : State) : (respond st data s).frameReady = s.frameReady := rfl
@[simp] theorem respond_idleTicks (st : Status) (data : BitVec 24) (s : State) : (respond st data s).idleTicks = s.idleTicks := rfl
@[simp] theorem respond_clrTicks (st : Status) (data : BitVec 24) (s : State) : (respond st data s).clrTicks = s.clrTicks := rfl
@[simp] theorem respond_clearReq (st : Status) (data : BitVec 24) (s : State) : (respond st data s).clearReq = s.clearReq := rfl
@[simp] theorem respond_avail (st : Status) (data : BitVec 24) (s : State) : (respond st data s).avail = s.avail := rfl
@[simp] theorem respond_resSys (st : Status) (data : BitVec 24) (s : State) : (respond st data s).resSys = s.resSys := rfl
@[simp] theorem respond_resAddr (st : Status) (data : BitVec 24) (s : State) : (respond st data s).resAddr = s.resAddr := rfl
@[simp] theorem respond_resCmd (st : Status) (data : BitVec 24) (s : State) : (respond st data s).resCmd = s.resCmd := rfl
@[simp] theorem respond_reg (st : Status) (data : BitVec 24) (s : State) : (respond st data s).reg = s.reg := rfl
@[simp] theorem respond_configured (st : Status) (data : BitVec 24) (s : State) : (respond st data s).configured = s.configured := rfl
@[simp] theorem respond_cfgClrTicks (st : Status) (data : BitVec 24) (s : State) : (respond st data s).cfgClrTicks = s.cfgClrTicks := rfl
@[simp] theorem respond_fault (st : Status) (data : BitVec 24) (s : State) : (respond st data s).fault = s.fault := rfl
@[simp] theorem respond_faultCode (st : Status) (data : BitVec 24) (s : State) : (respond st data s).faultCode = s.faultCode := rfl
@[simp] theorem respond_tickUs (st : Status) (data : BitVec 24) (s : State) : (respond st data s).tickUs = s.tickUs := rfl
@[simp] theorem respond_tovfUs (st : Status) (data : BitVec 24) (s : State) : (respond st data s).tovfUs = s.tovfUs := rfl
@[simp] theorem respond_inbox (st : Status) (data : BitVec 24) (s : State) : (respond st data s).inbox = s.inbox := rfl
@[simp] theorem respond_resp (st : Status) (data : BitVec 24) (s : State) : (respond st data s).resp = some (response st data) := rfl

@[simp] theorem refuse_phase (st : Status) (s : State) : (refuse st s).phase = s.phase := rfl
@[simp] theorem refuse_preCnt (st : Status) (s : State) : (refuse st s).preCnt = s.preCnt := rfl
@[simp] theorem refuse_bbLen (st : Status) (s : State) : (refuse st s).bbLen = s.bbLen := rfl
@[simp] theorem refuse_bb (st : Status) (s : State) : (refuse st s).bb = s.bb := rfl
@[simp] theorem refuse_frameReady (st : Status) (s : State) : (refuse st s).frameReady = s.frameReady := rfl
@[simp] theorem refuse_idleTicks (st : Status) (s : State) : (refuse st s).idleTicks = s.idleTicks := rfl
@[simp] theorem refuse_clrTicks (st : Status) (s : State) : (refuse st s).clrTicks = s.clrTicks := rfl
@[simp] theorem refuse_clearReq (st : Status) (s : State) : (refuse st s).clearReq = s.clearReq := rfl
@[simp] theorem refuse_avail (st : Status) (s : State) : (refuse st s).avail = s.avail := rfl
@[simp] theorem refuse_resSys (st : Status) (s : State) : (refuse st s).resSys = s.resSys := rfl
@[simp] theorem refuse_resAddr (st : Status) (s : State) : (refuse st s).resAddr = s.resAddr := rfl
@[simp] theorem refuse_resCmd (st : Status) (s : State) : (refuse st s).resCmd = s.resCmd := rfl
@[simp] theorem refuse_reg (st : Status) (s : State) : (refuse st s).reg = s.reg := rfl
@[simp] theorem refuse_configured (st : Status) (s : State) : (refuse st s).configured = s.configured := rfl
@[simp] theorem refuse_cfgClrTicks (st : Status) (s : State) : (refuse st s).cfgClrTicks = s.cfgClrTicks := rfl
@[simp] theorem refuse_fault (st : Status) (s : State) : (refuse st s).fault = s.fault := rfl
@[simp] theorem refuse_faultCode (st : Status) (s : State) : (refuse st s).faultCode = s.faultCode := rfl
@[simp] theorem refuse_tickUs (st : Status) (s : State) : (refuse st s).tickUs = s.tickUs := rfl
@[simp] theorem refuse_tovfUs (st : Status) (s : State) : (refuse st s).tovfUs = s.tovfUs := rfl
@[simp] theorem refuse_inbox (st : Status) (s : State) : (refuse st s).inbox = s.inbox := rfl
@[simp] theorem refuse_resp (st : Status) (s : State) : (refuse st s).resp = some (response st 0) := rfl

@[simp] theorem resetWatchdog_phase (s : State) : (resetWatchdog s).phase = s.phase := rfl
@[simp] theorem resetWatchdog_preCnt (s : State) : (resetWatchdog s).preCnt = s.preCnt := rfl
@[simp] theorem resetWatchdog_bbLen (s : State) : (resetWatchdog s).bbLen = s.bbLen := rfl
@[simp] theorem resetWatchdog_bb (s : State) : (resetWatchdog s).bb = s.bb := rfl
@[simp] theorem resetWatchdog_frameReady (s : State) : (resetWatchdog s).frameReady = s.frameReady := rfl
@[simp] theorem resetWatchdog_idleTicks (s : State) : (resetWatchdog s).idleTicks = 0 := rfl
@[simp] theorem resetWatchdog_clrTicks (s : State) : (resetWatchdog s).clrTicks = 0 := rfl
@[simp] theorem resetWatchdog_clearReq (s : State) : (resetWatchdog s).clearReq = s.clearReq := rfl
@[simp] theorem resetWatchdog_avail (s : State) : (resetWatchdog s).avail = s.avail := rfl
@[simp] theorem resetWatchdog_resSys (s : State) : (resetWatchdog s).resSys = s.resSys := rfl
@[simp] theorem resetWatchdog_resAddr (s : State) : (resetWatchdog s).resAddr = s.resAddr := rfl
@[simp] theorem resetWatchdog_resCmd (s : State) : (resetWatchdog s).resCmd = s.resCmd := rfl
@[simp] theorem resetWatchdog_reg (s : State) : (resetWatchdog s).reg = s.reg := rfl
@[simp] theorem resetWatchdog_configured (s : State) : (resetWatchdog s).configured = s.configured := rfl
@[simp] theorem resetWatchdog_cfgClrTicks (s : State) : (resetWatchdog s).cfgClrTicks = s.cfgClrTicks := rfl
@[simp] theorem resetWatchdog_fault (s : State) : (resetWatchdog s).fault = s.fault := rfl
@[simp] theorem resetWatchdog_faultCode (s : State) : (resetWatchdog s).faultCode = s.faultCode := rfl
@[simp] theorem resetWatchdog_tickUs (s : State) : (resetWatchdog s).tickUs = s.tickUs := rfl
@[simp] theorem resetWatchdog_tovfUs (s : State) : (resetWatchdog s).tovfUs = s.tovfUs := rfl
@[simp] theorem resetWatchdog_inbox (s : State) : (resetWatchdog s).inbox = s.inbox := rfl
@[simp] theorem resetWatchdog_resp (s : State) : (resetWatchdog s).resp = s.resp := rfl

@[simp] theorem restartAt_phase (p : Phase) (s : State) : (restartAt p s).phase = p := rfl
@[simp] theorem restartAt_preCnt (p : Phase) (s : State) : (restartAt p s).preCnt = 0 := rfl
@[simp] theorem restartAt_bbLen (p : Phase) (s : State) : (restartAt p s).bbLen = 0 := rfl
@[simp] theorem restartAt_bb (p : Phase) (s : State) : (restartAt p s).bb = s.bb := rfl
@[simp] theorem restartAt_frameReady (p : Phase) (s : State) : (restartAt p s).frameReady = s.frameReady := rfl
@[simp] theorem restartAt_idleTicks (p : Phase) (s : State) : (restartAt p s).idleTicks = s.idleTicks := rfl
@[simp] theorem restartAt_clrTicks (p : Phase) (s : State) : (restartAt p s).clrTicks = s.clrTicks := rfl
@[simp] theorem restartAt_clearReq (p : Phase) (s : State) : (restartAt p s).clearReq = s.clearReq := rfl
@[simp] theorem restartAt_avail (p : Phase) (s : State) : (restartAt p s).avail = s.avail := rfl
@[simp] theorem restartAt_resSys (p : Phase) (s : State) : (restartAt p s).resSys = s.resSys := rfl
@[simp] theorem restartAt_resAddr (p : Phase) (s : State) : (restartAt p s).resAddr = s.resAddr := rfl
@[simp] theorem restartAt_resCmd (p : Phase) (s : State) : (restartAt p s).resCmd = s.resCmd := rfl
@[simp] theorem restartAt_reg (p : Phase) (s : State) : (restartAt p s).reg = s.reg := rfl
@[simp] theorem restartAt_configured (p : Phase) (s : State) : (restartAt p s).configured = s.configured := rfl
@[simp] theorem restartAt_cfgClrTicks (p : Phase) (s : State) : (restartAt p s).cfgClrTicks = s.cfgClrTicks := rfl
@[simp] theorem restartAt_fault (p : Phase) (s : State) : (restartAt p s).fault = s.fault := rfl
@[simp] theorem restartAt_faultCode (p : Phase) (s : State) : (restartAt p s).faultCode = s.faultCode := rfl
@[simp] theorem restartAt_tickUs (p : Phase) (s : State) : (restartAt p s).tickUs = s.tickUs := rfl
@[simp] theorem restartAt_tovfUs (p : Phase) (s : State) : (restartAt p s).tovfUs = s.tovfUs := rfl
@[simp] theorem restartAt_inbox (p : Phase) (s : State) : (restartAt p s).inbox = s.inbox := rfl
@[simp] theorem restartAt_resp (p : Phase) (s : State) : (restartAt p s).resp = s.resp := rfl

@[simp] theorem takeFault_phase (c : FaultCause) (s : State) : (takeFault c s).phase = s.phase := rfl
@[simp] theorem takeFault_preCnt (c : FaultCause) (s : State) : (takeFault c s).preCnt = s.preCnt := rfl
@[simp] theorem takeFault_bbLen (c : FaultCause) (s : State) : (takeFault c s).bbLen = s.bbLen := rfl
@[simp] theorem takeFault_bb (c : FaultCause) (s : State) : (takeFault c s).bb = s.bb := rfl
@[simp] theorem takeFault_frameReady (c : FaultCause) (s : State) : (takeFault c s).frameReady = s.frameReady := rfl
@[simp] theorem takeFault_idleTicks (c : FaultCause) (s : State) : (takeFault c s).idleTicks = s.idleTicks := rfl
@[simp] theorem takeFault_clrTicks (c : FaultCause) (s : State) : (takeFault c s).clrTicks = s.clrTicks := rfl
@[simp] theorem takeFault_clearReq (c : FaultCause) (s : State) : (takeFault c s).clearReq = s.clearReq := rfl
@[simp] theorem takeFault_avail (c : FaultCause) (s : State) : (takeFault c s).avail = s.avail := rfl
@[simp] theorem takeFault_resSys (c : FaultCause) (s : State) : (takeFault c s).resSys = s.resSys := rfl
@[simp] theorem takeFault_resAddr (c : FaultCause) (s : State) : (takeFault c s).resAddr = s.resAddr := rfl
@[simp] theorem takeFault_resCmd (c : FaultCause) (s : State) : (takeFault c s).resCmd = s.resCmd := rfl
@[simp] theorem takeFault_reg (c : FaultCause) (s : State) : (takeFault c s).reg = s.reg := rfl
@[simp] theorem takeFault_configured (c : FaultCause) (s : State) : (takeFault c s).configured = s.configured := rfl
@[simp] theorem takeFault_cfgClrTicks (c : FaultCause) (s : State) : (takeFault c s).cfgClrTicks = s.cfgClrTicks := rfl
@[simp] theorem takeFault_fault (c : FaultCause) (s : State) : (takeFault c s).fault = true := rfl
@[simp] theorem takeFault_faultCode (c : FaultCause) (s : State) : (takeFault c s).faultCode = c.code := rfl
@[simp] theorem takeFault_tickUs (c : FaultCause) (s : State) : (takeFault c s).tickUs = s.tickUs := rfl
@[simp] theorem takeFault_tovfUs (c : FaultCause) (s : State) : (takeFault c s).tovfUs = s.tovfUs := rfl
@[simp] theorem takeFault_inbox (c : FaultCause) (s : State) : (takeFault c s).inbox = s.inbox := rfl
@[simp] theorem takeFault_resp (c : FaultCause) (s : State) : (takeFault c s).resp = some (response .faulted 0) := rfl

@[simp] theorem consumeFrame_phase (s : State) : (consumeFrame s).phase = s.phase := rfl
@[simp] theorem consumeFrame_preCnt (s : State) : (consumeFrame s).preCnt = s.preCnt := rfl
@[simp] theorem consumeFrame_bbLen (s : State) : (consumeFrame s).bbLen = 0 := rfl
@[simp] theorem consumeFrame_bb (s : State) : (consumeFrame s).bb = s.bb := rfl
@[simp] theorem consumeFrame_frameReady (s : State) : (consumeFrame s).frameReady = false := rfl
@[simp] theorem consumeFrame_idleTicks (s : State) : (consumeFrame s).idleTicks = s.idleTicks := rfl
@[simp] theorem consumeFrame_clrTicks (s : State) : (consumeFrame s).clrTicks = s.clrTicks := rfl
@[simp] theorem consumeFrame_clearReq (s : State) : (consumeFrame s).clearReq = s.clearReq := rfl
@[simp] theorem consumeFrame_avail (s : State) : (consumeFrame s).avail = true := rfl
@[simp] theorem consumeFrame_resSys (s : State) : (consumeFrame s).resSys = s.resSys := rfl
@[simp] theorem consumeFrame_resAddr (s : State) : (consumeFrame s).resAddr = s.resAddr := rfl
@[simp] theorem consumeFrame_resCmd (s : State) : (consumeFrame s).resCmd = s.resCmd := rfl
@[simp] theorem consumeFrame_reg (s : State) : (consumeFrame s).reg = s.reg := rfl
@[simp] theorem consumeFrame_configured (s : State) : (consumeFrame s).configured = s.configured := rfl
@[simp] theorem consumeFrame_cfgClrTicks (s : State) : (consumeFrame s).cfgClrTicks = s.cfgClrTicks := rfl
@[simp] theorem consumeFrame_fault (s : State) : (consumeFrame s).fault = s.fault := rfl
@[simp] theorem consumeFrame_faultCode (s : State) : (consumeFrame s).faultCode = s.faultCode := rfl
@[simp] theorem consumeFrame_tickUs (s : State) : (consumeFrame s).tickUs = s.tickUs := rfl
@[simp] theorem consumeFrame_tovfUs (s : State) : (consumeFrame s).tovfUs = s.tovfUs := rfl
@[simp] theorem consumeFrame_inbox (s : State) : (consumeFrame s).inbox = s.inbox := rfl
@[simp] theorem consumeFrame_resp (s : State) : (consumeFrame s).resp = s.resp := rfl

@[simp] theorem idleStep_phase (s : State) : (idleStep s).phase = s.phase := rfl
@[simp] theorem idleStep_preCnt (s : State) : (idleStep s).preCnt = s.preCnt := rfl
@[simp] theorem idleStep_bbLen (s : State) : (idleStep s).bbLen = s.bbLen := rfl
@[simp] theorem idleStep_bb (s : State) : (idleStep s).bb = s.bb := rfl
@[simp] theorem idleStep_frameReady (s : State) : (idleStep s).frameReady = s.frameReady := rfl
@[simp] theorem idleStep_idleTicks (s : State) : (idleStep s).idleTicks = s.idleTicks := rfl
@[simp] theorem idleStep_clrTicks (s : State) : (idleStep s).clrTicks = s.clrTicks := rfl
@[simp] theorem idleStep_clearReq (s : State) : (idleStep s).clearReq = s.clearReq := rfl
@[simp] theorem idleStep_avail (s : State) : (idleStep s).avail = s.avail := rfl
@[simp] theorem idleStep_resSys (s : State) : (idleStep s).resSys = s.resSys := rfl
@[simp] theorem idleStep_resAddr (s : State) : (idleStep s).resAddr = s.resAddr := rfl
@[simp] theorem idleStep_resCmd (s : State) : (idleStep s).resCmd = s.resCmd := rfl
@[simp] theorem idleStep_reg (s : State) : (idleStep s).reg = s.reg := rfl
@[simp] theorem idleStep_configured (s : State) : (idleStep s).configured = s.configured := rfl
@[simp] theorem idleStep_cfgClrTicks (s : State) : (idleStep s).cfgClrTicks = s.cfgClrTicks := rfl
@[simp] theorem idleStep_fault (s : State) : (idleStep s).fault = s.fault := rfl
@[simp] theorem idleStep_faultCode (s : State) : (idleStep s).faultCode = s.faultCode := rfl
@[simp] theorem idleStep_tickUs (s : State) : (idleStep s).tickUs = s.tickUs := rfl
@[simp] theorem idleStep_tovfUs (s : State) : (idleStep s).tovfUs = s.tovfUs := rfl
@[simp] theorem idleStep_inbox (s : State) : (idleStep s).inbox = s.inbox := rfl
@[simp] theorem idleStep_resp (s : State) : (idleStep s).resp = none := rfl

/-- R109: StartCapture is a restart at LeadingPulse. -/
@[simp] theorem startCapture_eq (s : State) : startCapture s = restartAt .leadingPulse s := rfl

/-- R108: RejectReset is a restart at Idle. -/
@[simp] theorem rejectReset_eq (s : State) : rejectReset s = restartAt .idle s := rfl

end Sys2Proof.Machine
end

