-- ==== Sys2Proof/Laws/Ops.lean ====
section
/-! SUPPORT. What each shared operation does, said once: later proofs cite these and do not unfold the operation. -/

namespace Sys2Proof.Machine

/-! ## The window test -/

theorem inWin_iff (tickUs : Nat) (dt : BitVec 16) (n : Nat) :
    inWin tickUs dt n = true ↔ n - 256 ≤ dt.toNat * tickUs ∧ dt.toNat * tickUs ≤ n + 256 := by
  simp [inWin]

theorem inWin_leadMark (tickUs : Nat) (dt : BitVec 16) :
    inWin tickUs dt Config.nomLeadMarkUs = true ↔ 3124 ≤ dt.toNat * tickUs ∧ dt.toNat * tickUs ≤ 3636 :=
  inWin_iff tickUs dt 3380

theorem inWin_leadGap (tickUs : Nat) (dt : BitVec 16) :
    inWin tickUs dt Config.nomLeadGapUs = true ↔ 1434 ≤ dt.toNat * tickUs ∧ dt.toNat * tickUs ≤ 1946 :=
  inWin_iff tickUs dt 1690

theorem inWin_short (tickUs : Nat) (dt : BitVec 16) :
    inWin tickUs dt Config.nomShortUs = true ↔ 164 ≤ dt.toNat * tickUs ∧ dt.toNat * tickUs ≤ 676 :=
  inWin_iff tickUs dt 420

theorem inWin_long (tickUs : Nat) (dt : BitVec 16) :
    inWin tickUs dt Config.nomLongUs = true ↔ 1014 ≤ dt.toNat * tickUs ∧ dt.toNat * tickUs ≤ 1526 :=
  inWin_iff tickUs dt 1270

theorem inWin_final (tickUs : Nat) (dt : BitVec 16) :
    inWin tickUs dt Config.nomFinalUs = true ↔ 164 ≤ dt.toNat * tickUs ∧ dt.toNat * tickUs ≤ 676 :=
  inWin_iff tickUs dt 420

/-- R106, R107: what the classifier refuses, the half being a mark when the count `n` is even. -/
theorem classify_outOfTolerance_iff (tickUs : Nat) (dt : BitVec 16) (n : Nat) :
    classify tickUs dt (n % 2 == 0) = .outOfTolerance ↔
      ¬((164 ≤ dt.toNat * tickUs ∧ dt.toNat * tickUs ≤ 676) ∨
        (n % 2 = 1 ∧ 1014 ≤ dt.toNat * tickUs ∧ dt.toNat * tickUs ≤ 1526)) := by
  have hs := inWin_short tickUs dt
  have hl := inWin_long tickUs dt
  unfold classify
  by_cases h1 : inWin tickUs dt Config.nomShortUs = true
  · simp [h1, hs.mp h1]
  · have h1' : ¬(164 ≤ dt.toNat * tickUs ∧ dt.toNat * tickUs ≤ 676) := fun h => h1 (hs.mpr h)
    by_cases h2 : inWin tickUs dt Config.nomLongUs = true
    · by_cases hn : n % 2 = 1
      · simp [h1, h2, hn, hl.mp h2]
      · have hn' : n % 2 = 0 := by omega
        simp only [h1, hn', beq_self_eq_true, Bool.not_true, Bool.false_and, Bool.false_eq_true, if_false, true_iff]
        omega
    · have h2' : ¬(1014 ≤ dt.toNat * tickUs ∧ dt.toNat * tickUs ≤ 1526) := fun h => h2 (hl.mpr h)
      simp only [h1, h2, Bool.and_false, Bool.false_eq_true, if_false, true_iff]
      tauto

/-- R80, R106: an accepted half-interval is stored as 1 exactly when it is not Short. -/
theorem entry_classify (tickUs : Nat) (dt : BitVec 16) (isMark : Bool)
    (h : classify tickUs dt isMark ≠ .outOfTolerance) :
    (classify tickUs dt isMark).entry = decide ¬(164 ≤ dt.toNat * tickUs ∧ dt.toNat * tickUs ≤ 676) := by
  have hs := inWin_short tickUs dt
  unfold classify at h ⊢
  by_cases h1 : inWin tickUs dt Config.nomShortUs = true
  · simp only [h1, if_true, IntervalClass.entry]
    simp [hs.mp h1]
  · have h1' : ¬(164 ≤ dt.toNat * tickUs ∧ dt.toNat * tickUs ≤ 676) := fun h => h1 (hs.mpr h)
    simp only [h1, if_false, Bool.false_eq_true] at h ⊢
    split_ifs at h ⊢
    · rw [decide_eq_true h1']
      rfl
    · exact absurd rfl h

/-! ## Responses -/

@[simp] theorem response_ok_zero : response .ok 0#24 = 0#32 := by decide

@[simp] theorem response_ok_one : response .ok 1#24 = 1#32 := by decide

@[simp] theorem response_ok_two : response .ok 2#24 = 2#32 := by decide

@[simp] theorem response_regFull : response .regFull 0#24 = 0x10000000#32 := by decide

@[simp] theorem response_illegal : response .illegal 0#24 = 0x20000000#32 := by decide

@[simp] theorem response_faulted : response .faulted 0#24 = 0x30000000#32 := by decide

@[simp] theorem response_notConfigured : response .notConfigured 0#24 = 0x40000000#32 := by decide

@[simp] theorem boolData_true : boolData true = 1#24 := by decide

@[simp] theorem boolData_false : boolData false = 0#24 := by decide

/-! ## The Bit Buffer -/

theorem bbRead_bbWrite (bb : Vector Bool 36) (i j : Nat) (b : Bool) (hi : i < 36) :
    bbRead (bbWrite bb i b) j = if j = i then b else bbRead bb j := by
  unfold bbRead bbWrite
  by_cases h : j = i
  · subst h; simp [hi]
  · have h' : i ≠ j := fun e => h e.symm
    simp [h, h']

theorem bbRead_bbWrite_self (bb : Vector Bool 36) (i : Nat) (b : Bool) (hi : i < 36) :
    bbRead (bbWrite bb i b) i = b := by simp [bbRead_bbWrite bb i i b hi]

theorem bbRead_bbWrite_other (bb : Vector Bool 36) (i j : Nat) (b : Bool) (hij : j ≠ i) :
    bbRead (bbWrite bb i b) j = bbRead bb j := by
  unfold bbRead bbWrite
  have h' : i ≠ j := fun e => hij e.symm
  simp [h']

@[simp] theorem bbRead_bbZero (i : Nat) : bbRead bbZero i = false := by
  unfold bbRead bbZero
  by_cases h : i < 36 <;> simp [h]

/-- Two buffers with equal entries are equal. -/
theorem bb_ext (a b : Vector Bool 36) (h : ∀ i < 36, bbRead a i = bbRead b i) : a = b := by
  apply Vector.ext
  intro i hi
  simpa [bbRead, hi] using h i hi

theorem append_full (b : Bool) (s : State) (h : 36 ≤ s.bbLen.toNat) : append b s = .error .bufferOverrun := by
  simp [append, h]

theorem append_room (b : Bool) (s : State) (h : s.bbLen.toNat < 36) :
    append b s = .ok { s with bb := bbWrite s.bb s.bbLen.toNat b, bbLen := s.bbLen + 1 } := by
  simp [append, Nat.not_le.mpr h]

/-! ## The registry -/

theorem Slot.holds_iff (sl : Slot) (key : BitVec 16) : sl.holds key = true ↔ sl = { valid := true, key := key } := by
  cases sl; simp [Slot.holds]

/-- R191: membership of the pair among the valid slots. -/
theorem containsPair_iff (reg : List Slot) (sys cmd : BitVec 8) :
    containsPair reg sys cmd = true ↔ ({ valid := true, key := sys ++ cmd } : Slot) ∈ reg := by
  simp [containsPair, List.any_eq_true, Slot.holds_iff, pairKey]

theorem mem_heldKeys_iff (reg : List Slot) (key : BitVec 16) :
    key ∈ heldKeys reg ↔ ({ valid := true, key := key } : Slot) ∈ reg := by
  simp only [heldKeys, List.mem_map, List.mem_filter]
  constructor
  · rintro ⟨⟨v, k⟩, ⟨hm, hv⟩, rfl⟩
    simp only at hv
    subst hv
    exact hm
  · intro h
    exact ⟨_, ⟨h, rfl⟩, rfl⟩

/-- R195: either every slot is valid, or the first free one takes the key. -/
theorem fillLowestFree_cases (key : BitVec 16) (reg : List Slot) :
    (fillLowestFree key reg = none ∧ ∀ sl ∈ reg, sl.valid = true) ∨
    ∃ pre sl post, reg = pre ++ sl :: post ∧ (∀ x ∈ pre, x.valid = true) ∧ sl.valid = false ∧
      fillLowestFree key reg = some (pre ++ { valid := true, key := key } :: post) := by
  induction reg with
  | nil => left; simp [fillLowestFree]
  | cons x rest ih =>
    by_cases hx : x.valid = true
    · rcases ih with ⟨hn, hall⟩ | ⟨pre, sl, post, rfl, hpre, hsl, hf⟩
      · left; simp [fillLowestFree, hx, hn]; exact hall
      · right
        refine ⟨x :: pre, sl, post, rfl, ?_, hsl, ?_⟩
        · simpa [hx] using hpre
        · simp [fillLowestFree, hx, hf]
    · right
      have hx' : x.valid = false := by simpa using hx
      exact ⟨[], x, rest, rfl, by simp, hx', by simp [fillLowestFree, hx']⟩

/-- R193: either no slot holds the key and nothing changes, or one slot that holds it loses its valid bit. -/
theorem dropKey_cases (key : BitVec 16) (reg : List Slot) :
    (dropKey key reg = reg ∧ ({ valid := true, key := key } : Slot) ∉ reg) ∨
    ∃ pre post, reg = pre ++ { valid := true, key := key } :: post ∧
      ({ valid := true, key := key } : Slot) ∉ pre ∧ dropKey key reg = pre ++ { valid := false, key := key } :: post := by
  induction reg with
  | nil => left; simp [dropKey]
  | cons x rest ih =>
    by_cases hx : x.holds key = true
    · right
      rw [Slot.holds_iff] at hx
      subst hx
      exact ⟨[], rest, rfl, by simp, by simp [dropKey, Slot.holds]⟩
    · have hne : ({ valid := true, key := key } : Slot) ≠ x := fun e => hx ((Slot.holds_iff x key).mpr e.symm)
      rcases ih with ⟨hd, hn⟩ | ⟨pre, post, rfl, hpre, hd⟩
      · left; simp [dropKey, hx, hd, hn, hne]
      · right
        exact ⟨x :: pre, post, rfl, by simp [hpre, hne], by simp [dropKey, hx, hd]⟩

theorem length_dropKey (key : BitVec 16) (reg : List Slot) : (dropKey key reg).length = reg.length := by
  rcases dropKey_cases key reg with ⟨h, -⟩ | ⟨pre, post, rfl, -, h⟩ <;> simp [h]

/-! ## The checks of R216 -/

theorem complete_ok {rule : State → Except FaultCause State} {s t : State} (h : rule s = .ok t) :
    complete rule s = t := by simp [complete, h]

theorem complete_error {rule : State → Except FaultCause State} {s : State} {c : FaultCause} (h : rule s = .error c) :
    complete rule s = takeFault c s := by simp [complete, h]

/-- A rule that raises no fault runs to its end. -/
@[simp] theorem complete_pure (f : State → State) (s : State) : complete (fun s => .ok (f s)) s = f s := rfl

theorem runCommand_faulted (rule : State → Except FaultCause State) (s : State) (h : s.fault = true) :
    runCommand rule s = .next (refuse .faulted s) := by simp [runCommand, h]

theorem runCommand_live (rule : State → Except FaultCause State) (s : State) (h : s.fault = false) :
    runCommand rule s = .next (complete rule s) := by simp [runCommand, h]

theorem runEvent_faulted (rule : State → Except FaultCause State) (s : State) (h : s.fault = true) :
    runEvent rule s = .next (refuse .faulted s) := by simp [runEvent, h]

theorem runEvent_unconfigured (rule : State → Except FaultCause State) (s : State) (h : s.fault = false)
    (hc : s.configured = false) : runEvent rule s = .next (refuse .notConfigured s) := by simp [runEvent, h, hc]

theorem runEvent_active (rule : State → Except FaultCause State) (s : State) (h : s.fault = false)
    (hc : s.configured = true) : runEvent rule s = .next (complete rule s) := by simp [runEvent, h, hc]

theorem refuseIllegal_live (s : State) (h : s.fault = false) : refuseIllegal s = .next (refuse .illegal s) := by
  simp [refuseIllegal, h]

theorem refuseIllegal_faulted (s : State) (h : s.fault = true) : refuseIllegal s = .next (refuse .faulted s) := by
  simp [refuseIllegal, h]

/-! ## The pieces of EDGE, TICK and POLL -/

/-- R106: the three outcomes of the classifier. -/
theorem classify_cases (tickUs : Nat) (dt : BitVec 16) (isMark : Bool) :
    (inWin tickUs dt 420 = true ∧ classify tickUs dt isMark = .short) ∨
    (inWin tickUs dt 420 = false ∧ isMark = false ∧ inWin tickUs dt 1270 = true ∧ classify tickUs dt isMark = .long) ∨
    (inWin tickUs dt 420 = false ∧ (isMark = false → inWin tickUs dt 1270 = false) ∧
      classify tickUs dt isMark = .outOfTolerance) := by
  unfold classify
  cases h : inWin tickUs dt Config.nomShortUs <;> cases h' : inWin tickUs dt Config.nomLongUs <;> cases isMark <;> simp_all

/-- R112: below 63 the counter is exact. -/
theorem preCntSucc_of_lt (dt : BitVec 16) (n : BitVec 6) (h : n.toNat < 63) : preCntSucc dt n = n + 1 := by
  have h' : n.toNat + 1 < 64 := by omega
  simp only [preCntSucc, h', if_true]
  apply BitVec.eq_of_toNat_eq
  simp

/-- R143. -/
theorem timeout_capturing (s : State) (h : s.phase.capturing = true) :
    timeout s = { s with phase := .idle, bbLen := 0, preCnt := 0, avail := false } := by
  simp [timeout, h, restartAt]

/-- R143: outside a capture only `phase` and `avail` are written. -/
theorem timeout_resting (s : State) (h : s.phase.capturing = false) :
    timeout s = { s with phase := .idle, avail := false } := by
  simp [timeout, h]

theorem clearServiceDue_iff (s : State) :
    clearServiceDue s = true ↔ s.clearReq = true ∧ s.phase.capturing = false ∧ s.frameReady = false := by
  simp [clearServiceDue, and_assoc]

/-- R161: a waiting frame keeps the clear service out. -/
theorem clearService_of_frameReady (s : State) (h : s.frameReady = true) : clearService s = s := by
  simp [clearService, clearServiceDue, h]

theorem fieldValue_lt (bb : Vector Bool 36) (base n : Nat) : fieldValue bb base n < 2 ^ n := by
  induction n with
  | zero => simp [fieldValue]
  | succ n ih =>
    have hb : (bbRead bb (base + 2 * n + 1)).toNat ≤ 1 := Bool.toNat_le _
    have := Nat.mul_le_mul_right (2 ^ n) hb
    simp only [fieldValue, pow_succ]
    omega

theorem decodedSys_le (bb : Vector Bool 36) : (decodedSys bb).toNat ≤ 15 := by
  have : fieldValue bb Config.sysBase Config.sysW < 16 := fieldValue_lt bb _ 4
  simp only [decodedSys, BitVec.toNat_ofNat]
  omega

theorem decodedAddr_le (bb : Vector Bool 36) : (decodedAddr bb).toNat ≤ 63 := by
  have : fieldValue bb Config.addrBase Config.addrW < 64 := fieldValue_lt bb _ 6
  simp only [decodedAddr, BitVec.toNat_ofNat]
  omega

end Sys2Proof.Machine
end

