-- ==== Sys2Proof/Laws/PerInstr.lean ====
section
/-! SUPPORT. Statements made instruction by instruction: the word of a well-formed instruction agrees with the fixed bits
of its row of spec/opcode_table.json (spec/30_encoding.md R74). -/

namespace Sys2Proof.Laws.EncodesRow

/-- The row of spec/opcode_table.json a constructor stands for. -/
def rowOf : Instr → OpcodeRow
  | .nop => ⟨"NOP", 0xFFFFFFFF#32, 0x00000000#32⟩
  | .init _ => ⟨"INIT", 0xFF000000#32, 0x10000000#32⟩
  | .edge _ => ⟨"EDGE", 0xFFFF0000#32, 0x20000000#32⟩
  | .tick => ⟨"TICK", 0xFFFFFFFF#32, 0x30000000#32⟩
  | .poll => ⟨"POLL", 0xFFFFFFFF#32, 0x40000000#32⟩
  | .disable _ _ => ⟨"DISABLE", 0xFFFF0000#32, 0x50000000#32⟩
  | .enable _ _ => ⟨"ENABLE", 0xFFFF0000#32, 0x60000000#32⟩
  | .contains _ _ => ⟨"CONTAINS", 0xFFFF0000#32, 0x70000000#32⟩
  | .readFrame => ⟨"READ_FRAME", 0xFFFFFFFF#32, 0x80000000#32⟩
  | .readStatus => ⟨"READ_STATUS", 0xFFFFFFFF#32, 0x90000000#32⟩
  | .reservedAB _ _ => ⟨"RESERVED", 0xE0000000#32, 0xA0000000#32⟩
  | .reservedCF _ _ => ⟨"RESERVED", 0xC0000000#32, 0xC0000000#32⟩

/-- The encoded word has its row's fixed bits. -/
def Statement (i : Instr) : Prop := i.wf = true → (rowOf i).admits (encode i) = true

/-- Bit by bit: the masked word agrees with the pattern. -/
theorem admits_of_bits (r : OpcodeRow) (w : Word) (h : ∀ i < 32, (w &&& r.mask).getLsbD i = r.pattern.getLsbD i) :
    r.admits w = true := by
  simpa [OpcodeRow.admits] using BitVec.eq_of_getLsbD_eq h

theorem nop : Statement .nop := fun _ => by decide

theorem tick : Statement .tick := fun _ => by decide

theorem poll : Statement .poll := fun _ => by decide

theorem readFrame : Statement .readFrame := fun _ => by decide

theorem readStatus : Statement .readStatus := fun _ => by decide

theorem init (ivl : BitVec 24) : Statement (.init ivl) := by
  intro _
  apply admits_of_bits
  intro i hi
  interval_cases i <;> (simp only [rowOf, encode, commandWord, BitVec.getLsbD_and, BitVec.getLsbD_append]; simp)

theorem edge (dt : BitVec 16) : Statement (.edge dt) := by
  intro _
  apply admits_of_bits
  intro i hi
  interval_cases i <;> (simp only [rowOf, encode, commandWord, BitVec.getLsbD_and, BitVec.getLsbD_append]; simp)

theorem disable (sys cmd : BitVec 8) : Statement (.disable sys cmd) := by
  intro _
  apply admits_of_bits
  intro i hi
  interval_cases i <;> (simp only [rowOf, encode, commandWord, pairOpd, BitVec.getLsbD_and, BitVec.getLsbD_append]; simp)

theorem enable (sys cmd : BitVec 8) : Statement (.enable sys cmd) := by
  intro _
  apply admits_of_bits
  intro i hi
  interval_cases i <;> (simp only [rowOf, encode, commandWord, pairOpd, BitVec.getLsbD_and, BitVec.getLsbD_append]; simp)

theorem contains (sys cmd : BitVec 8) : Statement (.contains sys cmd) := by
  intro _
  apply admits_of_bits
  intro i hi
  interval_cases i <;> (simp only [rowOf, encode, commandWord, pairOpd, BitVec.getLsbD_and, BitVec.getLsbD_append]; simp)

theorem reservedAB (op : BitVec 4) (rest : BitVec 28) : Statement (.reservedAB op rest) := by
  intro h
  have hop : op = 0xA#4 ∨ op = 0xB#4 := of_decide_eq_true h
  apply admits_of_bits
  intro i hi
  rcases hop with rfl | rfl <;> interval_cases i <;> (simp only [rowOf, encode, BitVec.getLsbD_and, BitVec.getLsbD_append]; simp)

theorem reservedCF (op : BitVec 4) (rest : BitVec 28) : Statement (.reservedCF op rest) := by
  intro h
  have hop : ∀ x : BitVec 4, 0xC ≤ x.toNat → x = 0xC#4 ∨ x = 0xD#4 ∨ x = 0xE#4 ∨ x = 0xF#4 := by decide
  apply admits_of_bits
  intro i hi
  rcases hop op (of_decide_eq_true h) with rfl | rfl | rfl | rfl <;> interval_cases i <;> (simp only [rowOf, encode, BitVec.getLsbD_and, BitVec.getLsbD_append]; simp)

end Sys2Proof.Laws.EncodesRow
end

