-- ==== Sys2Proof/Laws/Step.lean ====
section
/-! SUPPORT. Runs of several steps taken apart, and the set of keys a registry holds, slot by slot. -/

namespace Sys2Proof.Machine

/-! ## Runs -/

theorem run_zero (s : State) : Host.Core.run Sys2Proof.core 0 s = .next s := rfl

/-- A run after a step that has a next state. -/
theorem run_succ (n : Nat) (s t : State) (h : step s = .next t) :
    Host.Core.run Sys2Proof.core (n + 1) s = Host.Core.run Sys2Proof.core n t := by
  have h' : Sys2Proof.core.step s = .next t := h
  simp only [Host.Core.run, h']

/-- A run in two parts. -/
theorem run_add (m n : Nat) (s t : State) (h : Host.Core.run Sys2Proof.core m s = .next t) :
    Host.Core.run Sys2Proof.core (m + n) s = Host.Core.run Sys2Proof.core n t := by
  induction m generalizing s with
  | zero =>
    injection h with h
    subst h
    rw [Nat.zero_add]
  | succ m ih =>
    rw [Nat.succ_add]
    simp only [Host.Core.run] at h ⊢
    cases hs : Sys2Proof.core.step s with
    | next u =>
      rw [hs] at h
      exact ih u h
    | fault r => cases r
    | refused r =>
      rw [hs] at h
      cases h

/-- A step with nothing presented. -/
theorem step_nil (s : State) (h : s.inbox = []) : step s = .next (idleStep s) := by simp only [step, h]

/-- A step at a power-on reset. -/
theorem step_powerOnReset (s : State) (rest : List Stimulus) (h : s.inbox = .powerOnReset :: rest) :
    step s = .next (powerOn { s with inbox := rest }) := by simp only [step, h]

/-- A step at a word. -/
theorem step_word (s : State) (w : Word) (rest : List Stimulus) (h : s.inbox = .command w :: rest) :
    step s = runWord w { s with inbox := rest } := by simp only [step, h]

@[simp] theorem presented_nil : presented [] = [] := rfl

@[simp] theorem presented_cons (i : Instr) (is : List Instr) : presented (i :: is) = .command (encode i) :: presented is :=
  rfl

theorem presented_append (is js : List Instr) : presented (is ++ js) = presented is ++ presented js := by
  simp [presented]

/-! ## The keys a registry holds -/

@[simp] theorem heldKeys_nil : heldKeys [] = [] := rfl

@[simp] theorem heldKeys_cons_valid (k : BitVec 16) (reg : List Slot) :
    heldKeys ({ valid := true, key := k } :: reg) = k :: heldKeys reg := by simp [heldKeys]

theorem heldKeys_cons_free (sl : Slot) (reg : List Slot) (h : sl.valid = false) :
    heldKeys (sl :: reg) = heldKeys reg := by simp [heldKeys, h]

theorem heldKeys_append (a b : List Slot) : heldKeys (a ++ b) = heldKeys a ++ heldKeys b := by simp [heldKeys]

end Sys2Proof.Machine
end

