-- ==== Sys2Proof/Tests/Slice0.lean ====
section
/-! SUPPORT. The model's own tests, each about one step, with results from spec/95_test_vectors.md or worked by hand from
the rule named; then, for every statement of the row with hypotheses, a state and operands that meet them. -/

namespace Sys2Proof.Tests

open Sys2Proof Sys2Proof.Machine

/-! ## Helpers -/

/-- The next state, where there is one. -/
def after (o : Host.Outcome State Fault Refusal) : Option State :=
  match o with
  | .next t => some t
  | .fault _ => none
  | .refused _ => none

/-- S0 of spec/95_test_vectors.md section 0: power-on reset, then INIT 0. -/
def s0 : State := { State.reset with configured := true }

/-- S0 in a phase, with its two counters. -/
def inPhase (p : Phase) (preCnt bbLen : Nat) : State :=
  { s0 with phase := p, preCnt := BitVec.ofNat 6 preCnt, bbLen := BitVec.ofNat 6 bbLen }

/-- The machine of Section 5 of the vectors: power-on reset with the two slots given. -/
def withReg (a b : Slot) : State := { State.reset with reg := [a, b] }

/-- A free slot never used. -/
def free : Slot := { valid := false, key := 0 }

/-- A slot that holds a pair. -/
def holding (sys cmd : BitVec 8) : Slot := { valid := true, key := sys ++ cmd }

/-- The entries of a captured frame: marks 0, each space the bit of its field (spec/95 section 4). -/
def frameBits (sys addr cmd : Nat) : Vector Bool 36 :=
  Vector.ofFn fun i =>
    if i.val % 2 = 0 then false
    else if i.val < 8 then sys.testBit (i.val / 2)
    else if i.val < 20 then addr.testBit ((i.val - 8) / 2)
    else cmd.testBit ((i.val - 20) / 2)

/-- "ready (s, a, c)" of the vectors. -/
def ready (sys addr cmd : Nat) (s : State) : State :=
  { s with phase := .cooldown, bbLen := 36, frameReady := true, bb := frameBits sys addr cmd }

/-- "res (13, 0, 1), `avail` a, reg {(x, y)}". -/
def stored (avail : Bool) (reg : List Slot) : State :=
  { s0 with resSys := 13, resAddr := 0, resCmd := 1, avail := avail, reg := reg }

/-- Phase, `pre_cnt`, `bb_len` and `frame_ready` after one EDGE. -/
def edgeFrom (s : State) (dt : BitVec 16) : Option (Phase × Nat × Nat × Bool) :=
  (after (exec (.edge dt) s)).map fun t => (t.phase, t.preCnt.toNat, t.bbLen.toNat, t.frameReady)

/-- The response of one instruction. -/
def answer (i : Instr) (s : State) : Option Word := (after (exec i s)).bind fun t => t.resp

/-- The response of one word presented to the machine. -/
def answerWord (w : Word) (s : State) : Option Word :=
  (after (step { s with inbox := [.command w] })).bind fun t => t.resp

/-! ## Well-formedness: ill-formed terms are refused -/

theorem test_wf_refuses_first_row_with_opcode_of_second : (Instr.reservedAB 0xC#4 0#28).wf = false := by decide

theorem test_wf_refuses_first_row_with_command_opcode : (Instr.reservedAB 0x9#4 0#28).wf = false := by decide

theorem test_wf_refuses_second_row_with_opcode_of_first : (Instr.reservedCF 0xB#4 0#28).wf = false := by decide

theorem test_wf_accepts_each_reserved_opcode :
    (Instr.reservedAB 0xA#4 0#28).wf = true ∧ (Instr.reservedAB 0xB#4 0#28).wf = true ∧
      (Instr.reservedCF 0xC#4 0#28).wf = true ∧ (Instr.reservedCF 0xF#4 0#28).wf = true := by decide

/-! ## Decoding: a word for every constructor, written from R70 to R75 -/

theorem test_decode_nop : decode 0x00000000#32 = .command .nop := by decide

theorem test_decode_init : decode 0x10FFFFFF#32 = .command (.init 16777215) := by decide

theorem test_decode_edge : decode 0x20000D48#32 = .command (.edge 3400) := by decide

theorem test_decode_tick : decode 0x30000000#32 = .command .tick := by decide

theorem test_decode_poll : decode 0x40000000#32 = .command .poll := by decide

theorem test_decode_disable : decode 0x50000203#32 = .command (.disable 2 3) := by decide

theorem test_decode_enable : decode 0x60000203#32 = .command (.enable 2 3) := by decide

theorem test_decode_contains : decode 0x70000405#32 = .command (.contains 4 5) := by decide

theorem test_decode_readFrame : decode 0x80000000#32 = .command .readFrame := by decide

theorem test_decode_readStatus : decode 0x90000000#32 = .command .readStatus := by decide

theorem test_decode_reservedAB : decode 0xB0000001#32 = .command (.reservedAB 0xB 1) := by decide

theorem test_decode_reservedCF : decode 0xF0FFFFFF#32 = .command (.reservedCF 0xF 0x0FFFFFF) := by decide

/-- Vectors 7, 10, 11 and 12 of spec/95 section 6 and 15 of section 5: each is refused for the field that is not 0. -/
theorem test_decode_refuses_by_name :
    decode 0x00000001#32 = .illegal .operandBits ∧ decode 0x21000005#32 = .illegal .reservedField ∧
      decode 0x20010003#32 = .illegal .operandBits ∧ decode 0x30000001#32 = .illegal .operandBits ∧
      decode 0x50010000#32 = .illegal .operandBits ∧ decode 0x11000000#32 = .illegal .reservedField := by decide

theorem test_decodeTableWord :
    decodeTableWord 32 0x100186A0 = some (.init 100000) ∧ decodeTableWord 32 0x21000005 = none := by decide

theorem test_encode_pair : encode (.disable 13 1) = 0x50000D01#32 ∧ encode (.contains 1 13) = 0x7000010D#32 := by decide

/-- R83, R84: the text forms, and the word list of spec/95 section 1.1 from e0 to e9. -/
theorem test_assemble_lines :
    assembleLine Profile.p128 "EDGE 26 ; lead" = some [0x2000001A#32] ∧
      assembleLine Profile.p128 "DISABLE 13, 1" = some [0x50000D01#32] ∧
      assembleLine Profile.p128 "INIT 0x186A0" = some [0x100186A0#32] ∧
      assembleLine Profile.p128 "EDGE 65536" = none := by decide

theorem test_frame_words :
    (frameEdges Profile.p128 0x2AAAAAAA 13 0 1).length = 100 ∧
      ((frameEdges Profile.p128 0x2AAAAAAA 13 0 1).map encode).take 10 =
        [0x2000FFFF#32, 0x2000001A#32, 0x2000000D#32, 0x20000003#32, 0x20000003#32, 0x20000003#32, 0x2000000A#32,
          0x20000003#32, 0x20000003#32, 0x20000003#32] := by decide

/-- R275: the nominal durations of the two extreme frames. -/
theorem test_nominal_durations : nominalFrameUs 48 0 = 45810 ∧ nominalFrameUs 0 48 = 86610 := by decide

/-- R230, R105, R79: a cause's code and status, a class's nominal duration and code. -/
theorem test_codes :
    Condition.registryFull.code = 3 ∧ Condition.registryFull.status.code = 1 ∧ Condition.notConfigured.status.code = 4 ∧
      IntervalClass.leadingGap.nominalUs = some 1690 ∧ IntervalClass.outOfTolerance.code = 7 := by decide

/-! ## Reset and stepping -/

/-- R260: `cfg_clr_ticks` is 41 at TOVF_US = 2048 (spec/95 section 0). -/
theorem test_reset : State.reset.cfgClrTicks = 41 ∧ State.reset.configured = false ∧ State.reset.reg.length = 8 := by
  decide

/-- Vector 1 of spec/95 section 6, as the first instruction after reset. -/
theorem test_first_word_after_reset : (after (step (State.reset.withFetchWord 32 0x90000000))).bind (fun t => t.resp) = some 0 := by
  decide

/-- R260: the reset stimulus restores power-on reset and keeps what is presented after it. -/
theorem test_power_on :
    after (step { s0 with fault := true, faultCode := 5, inbox := [.powerOnReset, .command 0] }) =
      some { State.reset with inbox := [.command 0] } := by decide

/-- R212 (spec/95 section 6): ClrTicks at the vectors' watchdog periods. -/
theorem test_clrTicks :
    clrTicksFor 2048 0 = 41 ∧ clrTicksFor 2048 100000 = 49 ∧ clrTicksFor 2048 16777215 = 8192 ∧
      clrTicksFor 2048 50000 = 41 ∧ clrTicksFor 1 0 = 83000 ∧ clrTicksFor 1 16777215 = 16777215 ∧
      clrTicksFor 100000 0 = 1 := by decide

/-! ## NOP, INIT, READ_STATUS, the reserved words -/

theorem test_nop : answer .nop State.reset = some 0 ∧ answerWord 0x00000001 State.reset = some 0x20000000 := by decide

/-- Vector 16 of spec/95 section 6. -/
theorem test_init :
    (after (exec (.init 100000) (inPhase .leadingPulse 0 0))).map (fun t => (t.phase, t.configured, t.cfgClrTicks)) =
      some (.idle, true, 49) := by decide

/-- R211: INIT keeps the registry, and a faulted block refuses it (spec/95 section 6). -/
theorem test_init_keeps_registry :
    (after (exec (.init 0) (withReg (holding 13 1) free))).map (fun t => t.reg) = some [holding 13 1, free] ∧
      answer (.init 0) { State.reset with fault := true, faultCode := 4 } = some 0x30000000 := by decide

/-- spec/95 sections 2.5 and 4.3: the status words of two faulted blocks. -/
theorem test_readStatus :
    answer .readStatus { inPhase .commandField 44 36 with fault := true, faultCode := 5 } = some 0x005B2486 ∧
      answer .readStatus { ready 13 0 1 s0 with bbLen := 35, clearReq := true, fault := true, faultCode := 4 } =
        some 0x004023D8 := by decide

/-- Program D of spec/95 section 7: AddressField, PRECNT 44, BBLEN 13. -/
theorem test_readStatus_fields : answer .readStatus (inPhase .addressField 44 13) = some 0x000B0D05 := by decide

/-- R241: FAULTED comes before ILLEGAL. -/
theorem test_reserved_words :
    answerWord 0xA0000000 State.reset = some 0x20000000 ∧ answerWord 0xF0FFFFFF State.reset = some 0x20000000 ∧
      answerWord 0xA0000000 { State.reset with fault := true, faultCode := 4 } = some 0x30000000 := by decide

/-! ## EDGE -/

/-- spec/95 sections 2.1 and 2.2: just inside and just outside the leading windows. -/
theorem test_edge_leader_windows :
    edgeFrom (inPhase .leadingPulse 0 0) 24 = some (.idle, 0, 0, false) ∧
      edgeFrom (inPhase .leadingPulse 0 0) 25 = some (.leadingSpace, 0, 0, false) ∧
      edgeFrom (inPhase .leadingSpace 0 0) 15 = some (.preamble, 0, 0, false) ∧
      edgeFrom (inPhase .leadingSpace 0 0) 16 = some (.idle, 0, 0, false) ∧
      edgeFrom { inPhase .leadingPulse 0 0 with tickUs := 1 } 3636 = some (.leadingSpace, 0, 0, false) ∧
      edgeFrom { inPhase .leadingPulse 0 0 with tickUs := 1 } 3637 = some (.idle, 0, 0, false) := by
  refine ⟨?_, ?_, ?_, ?_, ?_, ?_⟩ <;> decide

/-- spec/95 sections 2.1 and 2.3: Long is no mark; the milestones; the field limits; the final mark. -/
theorem test_edge_body :
    edgeFrom (inPhase .preamble 0 0) 10 = some (.idle, 0, 0, false) ∧
      edgeFrom (inPhase .preamble 1 0) 7 = some (.idle, 0, 0, false) ∧
      edgeFrom (inPhase .preamble 39 0) 10 = some (.systemCodeField, 40, 0, false) ∧
      edgeFrom (inPhase .preamble 43 8) 3 = some (.addressField, 44, 8, false) ∧
      edgeFrom (inPhase .preamble 59 36) 3 = some (.finalPulse, 60, 36, false) ∧
      edgeFrom (inPhase .systemCodeField 40 7) 10 = some (.preamble, 40, 8, false) ∧
      edgeFrom (inPhase .addressField 44 19) 3 = some (.commandField, 44, 20, false) ∧
      edgeFrom (inPhase .commandField 44 35) 10 = some (.preamble, 44, 36, false) ∧
      edgeFrom (inPhase .finalPulse 60 36) 5 = some (.cooldown, 0, 36, true) ∧
      edgeFrom (inPhase .finalPulse 60 36) 6 = some (.idle, 0, 0, false) := by
  refine ⟨?_, ?_, ?_, ?_, ?_, ?_, ?_, ?_, ?_, ?_⟩ <;> decide

/-- spec/95 section 2.3: the entry written is entry `bb_len`, Long as 1. -/
theorem test_edge_entry :
    (after (exec (.edge 10) (inPhase .commandField 44 35))).map (fun t => (bbRead t.bb 35, bbRead t.bb 34)) =
      some (true, false) := by decide

/-- spec/95 section 2.5: the overrun fault leaves every other register. -/
theorem test_edge_overrun :
    after (exec (.edge 3) { inPhase .commandField 44 36 with idleTicks := 2 }) =
      some { inPhase .commandField 44 36 with idleTicks := 2, fault := true, faultCode := 5, resp := some 0x30000000 } := by
  decide

/-! ## TICK -/

/-- spec/95 section 3: the third TICK times out; a frame that waits is kept. -/
theorem test_tick_timeout :
    (after (exec .tick { inPhase .commandField 44 25 with idleTicks := 2 })).map
        (fun t => (t.phase, t.bbLen, t.preCnt, t.idleTicks)) = some (.idle, 0, 0, 3) ∧
      (after (exec .tick { ready 13 0 1 s0 with idleTicks := 2, avail := true })).map
        (fun t => (t.phase, t.frameReady, t.bbLen, t.avail)) = some (.idle, true, 36, false) := by decide

/-- spec/95 section 3: the clear counter at `cfg_clr_ticks` 3, and a TICK after the timeout. -/
theorem test_tick_clear :
    (after (exec .tick { s0 with cfgClrTicks := 3, clrTicks := 2, idleTicks := 2 })).map
        (fun t => (t.idleTicks, t.clrTicks, t.clearReq)) = some (3, 0, true) ∧
      (after (exec .tick { inPhase .leadingPulse 0 0 with idleTicks := 3 })).map
        (fun t => (t.phase, t.idleTicks)) = some (.leadingPulse, 3) := by decide

/-! ## POLL and READ_FRAME -/

/-- spec/95 section 4.1: the four rows of a ready frame, then the four without one. -/
theorem test_poll_outcomes :
    answer .poll (ready 13 5 1 (stored true [holding 13 1])) = some 0 ∧
      answer .poll (ready 13 0 1 (stored false [holding 13 1])) = some 1 ∧
      answer .poll (ready 13 0 2 (stored true [holding 13 2])) = some 1 ∧
      answer .poll (ready 13 0 1 (stored true [])) = some 1 ∧
      answer .poll (stored true [holding 13 1]) = some 0 ∧ answer .poll (stored true []) = some 1 ∧
      answer .poll (stored false [holding 13 1]) = some 0 ∧ answer .poll (stored false []) = some 0 := by decide

/-- spec/95 sections 4.2 and 4.3: the clear service at rest, and the malformed frame, which undoes it. -/
theorem test_poll_clear_and_fault :
    (after (exec .poll { s0 with clearReq := true, bb := Vector.replicate 36 true })).map
        (fun t => (t.clearReq, t.bb == bbZero)) = some (false, true) ∧
      (after (exec .poll { inPhase .systemCodeField 40 3 with clearReq := true, bb := Vector.replicate 36 true })).map
        (fun t => (t.clearReq, t.bbLen, bbRead t.bb 0)) = some (true, 3, true) ∧
      (after (exec .poll { ready 13 0 1 s0 with bbLen := 35, clearReq := true })).map
        (fun t => (t.clearReq, t.bbLen, t.fault, t.faultCode)) = some (true, 35, true, 4) := by decide

/-- spec/95 sections 1.3 and 4.4: (5, 33, 200) decoded and read. -/
theorem test_readFrame :
    answer .readFrame { s0 with resSys := 5, resAddr := 33, resCmd := 200 } = some 0x000521C8 ∧
      ((after (exec .poll (ready 5 33 200 s0))).bind fun t => answer .readFrame t) = some 0x000521C8 := by decide

/-! ## The registry, at REG_DEPTH = 2 (spec/95 section 5) -/

/-- Vectors 2 to 5. -/
theorem test_disable :
    (after (exec (.disable 13 1) (withReg free free))).map (fun t => (t.reg, t.resp)) =
        some ([holding 13 1, free], some 1) ∧
      answer (.disable 13 1) (withReg (holding 13 1) free) = some 2 ∧
      (after (exec (.disable 4 5) (withReg (holding 13 1) (holding 2 3)))).map (fun t => (t.reg, t.resp)) =
        some ([holding 13 1, holding 2 3], some 0x10000000) := by decide

/-- Vectors 8 to 10: the stale key, the absent pair, and the lowest free slot. -/
theorem test_enable :
    (after (exec (.enable 13 1) (withReg (holding 13 1) (holding 2 3)))).map (fun t => (t.reg, t.resp)) =
        some ([{ valid := false, key := 0x0D01 }, holding 2 3], some 1) ∧
      answer (.enable 13 1) (withReg { valid := false, key := 0x0D01 } (holding 2 3)) = some 0 ∧
      (after (exec (.disable 4 5) (withReg { valid := false, key := 0x0D01 } (holding 2 3)))).map (fun t => t.reg) =
        some [holding 4 5, holding 2 3] := by decide

/-- Vectors 6 and 7: the order of the key matters. -/
theorem test_contains :
    answer (.contains 13 1) (withReg (holding 13 1) (holding 2 3)) = some 1 ∧
      answer (.contains 1 13) (withReg (holding 13 1) (holding 2 3)) = some 0 := by decide

/-! ## Witnesses: the hypotheses of each statement are met together -/

/-- S0 with something presented. -/
def s0With (inbox : List Stimulus) : State := { s0 with inbox := inbox }

/-- A state with something presented. -/
def given (s : State) (inbox : List Stimulus) : State := { s with inbox := inbox }

/-- S0 has the ten invariants of R38. -/
theorem witness_inv_s0 (inbox : List Stimulus) : (s0With inbox).Inv where
  noFault := (by decide : s0.NoFault)
  frameWaits := (by decide : s0.FrameWaits)
  restEmpty := (by decide : s0.RestEmpty)
  leadEmpty := (by decide : s0.LeadEmpty)
  preambleCounts := (by decide : s0.PreambleCounts)
  fieldCounts := (by decide : s0.FieldCounts)
  marksShort := (by decide : s0.MarksShort)
  countersBounded := (by decide : s0.CountersBounded)
  keysDistinct := (by decide : s0.KeysDistinct)
  frameBounded := (by decide : s0.FrameBounded)

theorem witness_DecodeReadsBackEveryEncoding :
    (Instr.edge 0xFFFF).wf = true ∧ (Instr.reservedAB 0xA 0).wf = true ∧ (Instr.reservedCF 0xF 0xFFFFFFF).wf = true := by
  decide

theorem witness_EncodeWritesBackEveryDecodedWord :
    decode 0x5000FFFF#32 = .command (.disable 255 255) ∧ decode 0xFFFFFFFF#32 = .command (.reservedCF 0xF 0xFFFFFFF) := by
  decide

theorem witness_PresentedWordRunsAsItsCommand :
    (s0With [.command 0x30000000#32, .powerOnReset]).inbox = .command 0x30000000#32 :: [.powerOnReset] ∧
      decode 0x30000000#32 = .command .tick := by decide

theorem witness_IllegalWordChangesNothing :
    (s0With [.command 0x00000001#32]).Live ∧ (s0With [.command 0x00000001#32]).inbox = .command 0x00000001#32 :: [] ∧
      ∀ r ∈ commandRows, 0x00000001#32 &&& r.mask ≠ r.pattern := by decide

theorem witness_ReservedOpcodesAnswerIllegal : s0.Live := by decide

theorem witness_NothingPresentedChangesNothing : s0.inbox = [] := by decide

theorem witness_EveryCommandReturnsOneResponseWord :
    ∃ t, (s0With [.command 0x40000000#32]).inbox = .command 0x40000000#32 :: [] ∧
      step (s0With [.command 0x40000000#32]) = .next t := ⟨_, rfl, rfl⟩

/-- The three clauses: INIT, a word other than READ_STATUS; READ_STATUS; and a power-on reset, which ends the fault. -/
theorem witness_FaultedBlockRefusesAllButReadStatus :
    (∀ i ∈ [Instr.init 0, .readStatus], ∀ s ∈ [given { s0 with fault := true, faultCode := 4 } [.command (encode i)]],
      s.fault = true ∧ s.inbox = .command (encode i) :: [] ∧ (i = .readStatus ↔ encode i = 0x90000000#32)) ∧
    ∀ s ∈ [given { s0 with fault := true, faultCode := 4 } [.powerOnReset]],
      s.fault = true ∧ (after (step s)).map (fun t => t.fault) = some false := by decide

theorem witness_EventsBeforeInitAreRefused : State.reset.Live ∧ State.reset.configured = false := by decide

/-- Both disjuncts: POLL at a malformed frame, EDGE at a full buffer. -/
theorem witness_FaultsArePrecise :
    (∃ t, ({ ready 13 0 1 s0 with bbLen := 35 } : State).Live ∧
      exec .poll { ready 13 0 1 s0 with bbLen := 35 } = .next t ∧ t.fault = true) ∧
    (∃ t, (inPhase .commandField 44 36).Live ∧ exec (.edge 3) (inPhase .commandField 44 36) = .next t ∧ t.fault = true) :=
  ⟨⟨_, rfl, rfl, rfl⟩, ⟨_, rfl, rfl, rfl⟩⟩

theorem witness_PowerOnResetState :
    1 ≤ (s0With [.powerOnReset]).tovfUs ∧ (s0With [.powerOnReset]).inbox = .powerOnReset :: [] := by decide

theorem witness_InitLeavesPowerOnStateButConfiguration : s0.Live := by decide

theorem witness_NopOnlyAnswersOk : s0.Live := by decide

theorem witness_InitZeroesBuffersAndCounters : s0.Live ∧ 1 ≤ s0.tovfUs := by decide

/-- The bounds of the interval's range, and the boundary of the last clause. -/
theorem witness_ClearIntervalRoundsUpToTicks :
    1 ≤ 1 ∧ 0 < 2 ^ 24 ∧ 2 ^ 24 - 1 < 2 ^ 24 ∧ 83000 < 2 ^ 24 ∧ 83000 ≤ 83000 := by decide

theorem witness_WindowTestIsATickRange : 1 ≤ s0.tickUs := by decide

theorem witness_SaturatedEdgeCountIsNeverAccepted : 1 ≤ 1 ∧ 65535 ≤ 65535 ∧ 3380 ≤ 3380 := by decide

theorem witness_EdgeWhileFrameWaitsIsDropped : (ready 13 0 1 s0).Active ∧ (ready 13 0 1 s0).frameReady = true := by decide

/-- Both phases of rest. -/
theorem witness_EdgeAtRestStartsACapture :
    (s0.Active ∧ s0.frameReady = false ∧ s0.phase = .idle) ∧
      (inPhase .cooldown 0 0).Active ∧ (inPhase .cooldown 0 0).frameReady = false ∧
      (inPhase .cooldown 0 0).phase = .cooldown := by decide

/-- Both branches, at the upper bound: 28 ticks are in the window, 29 are not. -/
theorem witness_LeadingPulseTakesOnlyTheLeadingMark :
    ((inPhase .leadingPulse 0 0).Active ∧ (inPhase .leadingPulse 0 0).frameReady = false ∧
      (inPhase .leadingPulse 0 0).phase = .leadingPulse) ∧ 28 * 128 ≤ 3636 ∧ ¬29 * 128 ≤ 3636 := by decide

/-- Both branches, at the lower bound: 12 ticks are in the window, 11 are not. -/
theorem witness_LeadingSpaceTakesOnlyTheLeadingGap :
    ((inPhase .leadingSpace 0 0).Active ∧ (inPhase .leadingSpace 0 0).frameReady = false ∧
      (inPhase .leadingSpace 0 0).phase = .leadingSpace) ∧ 1434 ≤ 12 * 128 ∧ ¬1434 ≤ 11 * 128 := by decide

/-- Each milestone and both parities: `pre_cnt` 0, 39, 43, 59 and the last value allowed. -/
theorem witness_PreambleCountsHalfIntervals :
    ∀ n ∈ [0, 39, 43, 59, 62], (inPhase .preamble n 0).Active ∧ (inPhase .preamble n 0).frameReady = false ∧
      (inPhase .preamble n 0).phase = .preamble ∧ (inPhase .preamble n 0).preCnt.toNat = n ∧ n < 63 := by decide

/-- Each field at its first and last entry, and the full buffer. -/
theorem witness_FieldPhasesAppendOneEntry :
    ∀ x ∈ [(Phase.systemCodeField, 8, Phase.preamble, 0), (.systemCodeField, 8, .preamble, 7),
        (.addressField, 20, .commandField, 19), (.commandField, 36, .preamble, 35), (.commandField, 36, .preamble, 36)],
      (inPhase x.1 44 x.2.2.2).Active ∧ (inPhase x.1 44 x.2.2.2).frameReady = false ∧
        ((inPhase x.1 44 x.2.2.2).phase, x.2.1, x.2.2.1) ∈ [(Phase.systemCodeField, 8, Phase.preamble),
          (Phase.addressField, 20, Phase.commandField), (Phase.commandField, 36, Phase.preamble)] := by decide

theorem witness_FinalPulseRaisesFrameReady :
    (inPhase .finalPulse 60 36).Active ∧ (inPhase .finalPulse 60 36).frameReady = false ∧
      (inPhase .finalPulse 60 36).phase = .finalPulse := by decide

/-- Both cases of the buffer clause: a field phase, and another phase. -/
theorem witness_EdgeFrame :
    (∃ t, exec (.edge 3) (inPhase .addressField 44 10) = .next t) ∧ (∃ t, exec (.edge 3) s0 = .next t) ∧
      (0 < 36 ∧ 0 ≠ (inPhase .addressField 44 10).bbLen.toNat) ∧
      s0.phase ∉ [Phase.systemCodeField, Phase.addressField, Phase.commandField] :=
  ⟨⟨_, rfl⟩, ⟨_, rfl⟩, by decide, by decide⟩

/-- A `dt` at one of the two ends of each window at TICK_US = 128 (spec/95 section 2.1), so that equal classes get different
intervals within one frame. -/
def endOf (upper : Bool) : IntervalClass → BitVec 16
  | .short => if upper then 5 else 2
  | .long => if upper then 11 else 8
  | .leadingMark => if upper then 28 else 25
  | .leadingGap => if upper then 15 else 12
  | .finalMark => if upper then 5 else 2
  | .outOfTolerance => 0

/-- The intervals of a frame, every third one at the upper end of its window. -/
def variedDts (pre : BitVec 30) (sys : BitVec 4) (addr : BitVec 6) (cmd : BitVec 8) : List (BitVec 16) :=
  (frameClasses pre sys addr cmd).mapIdx fun i c => endOf (i % 3 == 0) c

/-- From both phases of rest, with a reset presented after the frame. -/
theorem witness_IntactFrameIsCaptured :
    ∀ p ∈ [Phase.idle, Phase.cooldown], ∀ s ∈ [given (inPhase p 0 0)
        (presented ((0xFFFF :: variedDts 0x2AAAAAAA 13 63 255).map .edge) ++ [.powerOnReset])],
      s.Active ∧ s.frameReady = false ∧ (s.phase = .idle ∨ s.phase = .cooldown) ∧
        List.Forall₂ (fun dt c => IntervalClass.admits s.tickUs dt c = true) (variedDts 0x2AAAAAAA 13 63 255)
          (frameClasses 0x2AAAAAAA 13 63 255) ∧
        s.inbox = presented ((0xFFFF :: variedDts 0x2AAAAAAA 13 63 255).map .edge) ++ [.powerOnReset] := by
  decide +kernel

/-- Both outcomes: (13, 0, 1) against the stored pair, in the registry and not. -/
theorem witness_IntactFrameIsReportedAndDecoded :
    ∀ reg ∈ [[holding 13 1], []], ∀ s ∈ [given (stored true reg)
        (presented ((0 :: variedDts 0 13 0 1).map .edge ++ [.poll]) ++ [])],
      s.Active ∧ s.frameReady = false ∧ (s.phase = .idle ∨ s.phase = .cooldown) ∧
        List.Forall₂ (fun dt c => IntervalClass.admits s.tickUs dt c = true) (variedDts 0 13 0 1) (frameClasses 0 13 0 1) ∧
        s.inbox = presented ((0 :: variedDts 0 13 0 1).map .edge ++ [.poll]) ++ [] ∧
        s.avail = true ∧ (13#4).setWidth 8 = s.resSys ∧ 1 = s.resCmd := by decide +kernel

/-- R84: profile P1 fits the edge tick it is for. -/
theorem test_profile_p1 : Profile.p1.fits 1 = true ∧ Profile.p1.fits 128 = false := by decide

/-- At the longest run the statement covers, 99 edges. -/
theorem witness_FrameNeedsAHundredEdges :
    ∃ s, s = s0With (presented ((List.replicate 99 3#16).map Instr.edge) ++ []) ∧ s.Inv ∧ s.frameReady = false ∧
      (s.phase = .idle ∨ s.phase = .cooldown) ∧ (List.replicate 99 3#16).length < 100 ∧
      s.inbox = presented ((List.replicate 99 3#16).map Instr.edge) ++ [] :=
  ⟨_, rfl, witness_inv_s0 _, rfl, .inl rfl, by decide, rfl⟩

/-- Both comparisons at their boundaries: `idle_ticks` 2, and `clr_ticks` one below `cfg_clr_ticks`. -/
theorem witness_TickCountsAndTimesOut :
    ∀ s ∈ [{ inPhase .preamble 3 0 with idleTicks := 2 }, { s0 with clrTicks := 39 }, { s0 with clrTicks := 40 }],
      s.Active := by decide

theorem witness_ThirdSilentTickAbortsTheCapture :
    ∀ s ∈ [given (inPhase .commandField 44 25) (presented [.tick, .tick, .tick] ++ [])],
      s.Active ∧ s.idleTicks = 0 ∧ s.phase.capturing = true ∧ s.inbox = presented [.tick, .tick, .tick] ++ [] := by decide

/-- On both sides of the boundary, `cfg_clr_ticks` = 41. -/
theorem witness_ClearIsRequestedPeriodically :
    ∀ n ∈ [40, 41], ∀ s ∈ [given s0 (presented (List.replicate n .tick) ++ [])],
      s.Active ∧ s.clrTicks = 0 ∧ s.clearReq = false ∧ 1 ≤ s.cfgClrTicks.toNat ∧
        s.inbox = presented (List.replicate n .tick) ++ [] := by decide

theorem witness_SilenceTimesOutOnlyOnce :
    ∀ s ∈ [given { s0 with idleTicks := 3, avail := true } (presented (List.replicate 10 .tick) ++ [])],
      s.Active ∧ s.idleTicks = 3 ∧ s.inbox = presented (List.replicate 10 .tick) ++ [] := by decide

/-- Both clauses, in a field phase at its last entry, and at 36 entries in the last preamble window and in FinalPulse. -/
theorem witness_EdgeAgainstTimeoutDependsOnOrder :
    ∀ is ∈ [[Instr.tick, .edge 3], [.edge 3, .tick]],
      ∀ s0 ∈ [inPhase .commandField 44 35, inPhase .preamble 50 36, inPhase .finalPulse 60 36],
        ∀ s ∈ [given { s0 with idleTicks := 2 } (presented is ++ [])],
          s.Active ∧ s.frameReady = false ∧ s.idleTicks = 2 ∧ s.phase.capturing = true ∧
            (s.phase ∈ [Phase.systemCodeField, Phase.addressField, Phase.commandField] → s.bbLen.toNat < 36) ∧
            s.inbox = presented is ++ [] := by decide

/-- Both outcomes: (13, 5, 1) is suppressed against a stored (13, 0, 1), (13, 5, 2) is not. -/
theorem witness_PollConsumesTheWaitingFrame :
    ∀ c ∈ [1, 2], ∀ s ∈ [ready 13 5 c (stored true [holding 13 1])],
      s.Live ∧ s.frameReady = true ∧ s.bbLen = 36 ∧
        (13 : BitVec 8) = (BitVec.ofBool (bbRead s.bb 7) ++ BitVec.ofBool (bbRead s.bb 5) ++ BitVec.ofBool (bbRead s.bb 3)
          ++ BitVec.ofBool (bbRead s.bb 1)).setWidth 8 ∧
        (5 : BitVec 8) = (BitVec.ofBool (bbRead s.bb 19) ++ BitVec.ofBool (bbRead s.bb 17)
          ++ BitVec.ofBool (bbRead s.bb 15) ++ BitVec.ofBool (bbRead s.bb 13) ++ BitVec.ofBool (bbRead s.bb 11)
          ++ BitVec.ofBool (bbRead s.bb 9)).setWidth 8 ∧
        BitVec.ofNat 8 c = BitVec.ofBool (bbRead s.bb 35) ++ BitVec.ofBool (bbRead s.bb 33)
          ++ BitVec.ofBool (bbRead s.bb 31) ++ BitVec.ofBool (bbRead s.bb 29) ++ BitVec.ofBool (bbRead s.bb 27)
          ++ BitVec.ofBool (bbRead s.bb 25) ++ BitVec.ofBool (bbRead s.bb 23) ++ BitVec.ofBool (bbRead s.bb 21) := by
  decide

/-- On both sides of 36. -/
theorem witness_PollFaultsOnMalformedFrame :
    ∀ n ∈ [35#6, 37#6], ∀ s ∈ [{ ready 13 0 1 s0 with bbLen := n }],
      s.Live ∧ s.frameReady = true ∧ s.bbLen ≠ 36 := by decide

theorem witness_PollWithoutFrameReportsTheLevel : (stored true []).Live ∧ (stored true []).frameReady = false := by decide

/-- Both clauses: the service due in each phase of rest, and kept out by a capture and by a waiting frame. -/
theorem witness_ClearServiceRunsOnlyAtRest :
    (∀ s ∈ [{ s0 with clearReq := true }, { inPhase .cooldown 0 0 with clearReq := true }],
      s.Live ∧ (after (exec .poll s)).isSome = true ∧
        (s.clearReq = true ∧ (s.phase = .idle ∨ s.phase = .cooldown) ∧ s.frameReady = false)) ∧
    (∀ s ∈ [{ inPhase .preamble 5 0 with clearReq := true }, { ready 13 0 1 s0 with clearReq := true }, s0],
      s.Live ∧ (after (exec .poll s)).isSome = true ∧
        ¬(s.clearReq = true ∧ (s.phase = .idle ∨ s.phase = .cooldown) ∧ s.frameReady = false)) := by decide

theorem witness_PendingClearWaitsForTheNextPoll :
    ∀ s ∈ [given { ready 13 0 1 s0 with clearReq := true } (presented [.poll, .poll] ++ [])],
      s.Live ∧ s.frameReady = true ∧ s.bbLen = 36 ∧ s.clearReq = true ∧ (s.phase = .idle ∨ s.phase = .cooldown) ∧
        s.inbox = presented [.poll, .poll] ++ [] := by decide

theorem witness_ReadFrameReturnsTheDecodedFrame : (stored true []).Live := by decide

/-- The three clauses: held, new with the second slot free, new at a full registry. -/
theorem witness_DisableAddsThePairOnce :
    ((withReg (holding 13 1) free).Live ∧ holding 13 1 ∈ (withReg (holding 13 1) free).reg) ∧
      (holding 2 3 ∉ (withReg (holding 13 1) free).reg ∧
        (withReg (holding 13 1) free).reg = [holding 13 1] ++ free :: [] ∧
        (∀ x ∈ [holding 13 1], x.valid = true) ∧ free.valid = false) ∧
      ((withReg (holding 13 1) (holding 2 3)).Live ∧ holding 4 5 ∉ (withReg (holding 13 1) (holding 2 3)).reg ∧
        ∀ x ∈ (withReg (holding 13 1) (holding 2 3)).reg, x.valid = true) := by decide

/-- Both clauses: the pair in the second slot, and absent. -/
theorem witness_EnableRemovesThePair :
    (withReg (holding 13 1) (holding 2 3)).Live ∧ (withReg (holding 13 1) (holding 2 3)).KeysDistinct ∧
      (withReg (holding 13 1) (holding 2 3)).reg = [holding 13 1] ++ { valid := true, key := 2#8 ++ 3#8 } :: [] ∧
      holding 9 9 ∉ (withReg (holding 13 1) (holding 2 3)).reg := by decide

theorem witness_ContainsTestsMembership : (withReg (holding 13 1) free).Live := by decide

theorem witness_OnlyDisableAndEnableWriteTheRegistry :
    (∃ t, exec .poll s0 = .next t) ∧ (∀ sys cmd, Instr.poll ≠ .disable sys cmd ∧ Instr.poll ≠ .enable sys cmd) ∧
      ∃ t, step (s0With [.powerOnReset]) = .next t :=
  ⟨⟨_, rfl⟩, fun _ _ => ⟨nofun, nofun⟩, ⟨_, rfl⟩⟩

/-- One set in two arrangements of the slots, one with a stale key. -/
theorem witness_RegistryIsObservedOnlyAsASet :
    withReg (holding 13 1) free = { withReg { valid := false, key := 7 } (holding 13 1) with reg := [holding 13 1, free] } ∧
      (withReg (holding 13 1) free).reg.length = (withReg { valid := false, key := 7 } (holding 13 1)).reg.length ∧
      (withReg (holding 13 1) free).KeysDistinct ∧ (withReg { valid := false, key := 7 } (holding 13 1)).KeysDistinct ∧
      heldKeys (withReg (holding 13 1) free).reg = heldKeys (withReg { valid := false, key := 7 } (holding 13 1)).reg := by
  decide

/-- Program F of spec/95 section 7. -/
theorem witness_FullRegistryRecoversAfterEnable :
    ∀ s ∈ [given (withReg (holding 1 1) (holding 2 2)) (presented [.disable 3 3, .enable 1 1, .disable 3 3] ++ [])],
      s.Live ∧ (∀ x ∈ s.reg, x.valid = true) ∧ s.KeysDistinct ∧ holding 3 3 ∉ s.reg ∧ holding 1 1 ∈ s.reg ∧
        s.inbox = presented [.disable 3 3, .enable 1 1, .disable 3 3] ++ [] := by decide

/-- Both clauses, and both alternatives of the first: the stored pair held, and a free slot for it. -/
theorem witness_RegistryChangeReachesTheNextPoll :
    (∀ reg ∈ [[holding 13 1], [free]], ∀ s ∈ [given (stored true reg) (presented [.disable 13 1, .poll] ++ [])],
      s.Live ∧ s.frameReady = false ∧ s.avail = true ∧ s.KeysDistinct ∧
        s.inbox = presented [.disable s.resSys s.resCmd, .poll] ++ [] ∧
        (holding s.resSys s.resCmd ∈ s.reg ∨ ∃ x ∈ s.reg, x.valid = false)) ∧
    (∀ s ∈ [given (stored true [holding 13 1]) (presented [.enable 13 1, .poll] ++ [])],
      s.Live ∧ s.frameReady = false ∧ s.avail = true ∧ s.KeysDistinct ∧
        s.inbox = presented [.enable s.resSys s.resCmd, .poll] ++ []) := by decide

theorem witness_PowerOnStateSatisfiesInvariants : Build.reference.wf ∧ Build.reference.wellConfigured := by decide

theorem witness_StepKeepsInvariants :
    ∃ t, (s0With (presented [.edge 3])).Inv ∧ step (s0With (presented [.edge 3])) = .next t :=
  ⟨_, witness_inv_s0 _, rfl⟩

theorem witness_ReachableStatesSatisfyInvariants : Reachable { State.por Build.reference with inbox := presented [.nop] } :=
  .por _ (by decide) _

/-- A TICK that changes a register, and an ENABLE that changes a valid bit. -/
theorem witness_OnlyListedCommandsWriteEachRegister :
    (∃ t, exec .tick s0 = .next t ∧ t.idleTicks ≠ s0.idleTicks) ∧
      ∃ t, exec (.enable 13 1) (withReg (holding 13 1) free) = .next t ∧ t.reg ≠ (withReg (holding 13 1) free).reg :=
  ⟨⟨_, rfl, by decide⟩, ⟨_, rfl, by decide⟩⟩

theorem witness_StepKeepsTheBuild : ∃ t, step (s0With [.powerOnReset]) = .next t := ⟨_, rfl⟩

/-- Two buffers that agree below `bb_len` = 3 and differ above. -/
theorem witness_StaleBufferEntriesAreNeverObserved :
    (∀ j < (inPhase .systemCodeField 40 3).bbLen.toNat,
      bbRead (bbWrite bbZero 3 true) j = bbRead (inPhase .systemCodeField 40 3).bb j) ∧
      (∃ t, exec (.edge 3) (inPhase .systemCodeField 40 3) = .next t) ∧
      ∃ t, exec (.edge 3) { inPhase .systemCodeField 40 3 with bb := bbWrite bbZero 3 true } = .next t :=
  ⟨by decide, ⟨_, rfl⟩, ⟨_, rfl⟩⟩

end Sys2Proof.Tests
end

/-! # The invariants of R38 along every run (spec/10_state.md)

Invariants (2) to (6) are read phase by phase as one table, `CaptureCounts`. Each rule of the block keeps all ten
invariants and raises no fault (`KeepsInv`); the checks of R216, the decoder and the step pass this on, and an induction
over `Reachable` ends it. -/

namespace Sys2Proof.Machine

/-! ## The ten invariants in six parts -/

/-- R38 (2) to (6) phase by phase: `pre_cnt`, `bb_len` and `frame_ready` as each phase holds them. -/
def CaptureCounts (pre len : Nat) (ready : Bool) : Phase → Prop
  | .idle => pre = 0 ∧ len = if ready then 36 else 0
  | .leadingPulse => ready = false ∧ pre = 0 ∧ len = 0
  | .leadingSpace => ready = false ∧ pre = 0 ∧ len = 0
  | .preamble => ready = false ∧
      ((pre < 40 ∧ len = 0) ∨ (40 ≤ pre ∧ pre < 44 ∧ len = 8) ∨ (44 ≤ pre ∧ pre < 60 ∧ len = 36))
  | .systemCodeField => ready = false ∧ pre = 40 ∧ len < 8
  | .addressField => ready = false ∧ pre = 44 ∧ 8 ≤ len ∧ len < 20
  | .commandField => ready = false ∧ pre = 44 ∧ 20 ≤ len ∧ len < 36
  | .finalPulse => ready = false ∧ pre = 60 ∧ len = 36
  | .cooldown => pre = 0 ∧ len = if ready then 36 else 0

/-- The table `CaptureCounts` at the registers of a state. -/
abbrev State.CountsFit (s : State) : Prop := CaptureCounts s.preCnt.toNat s.bbLen.toNat s.frameReady s.phase

/-- The table says what invariants (2) to (6) say. -/
theorem countsFit_iff (s : State) :
    s.CountsFit ↔ s.FrameWaits ∧ s.RestEmpty ∧ s.LeadEmpty ∧ s.PreambleCounts ∧ s.FieldCounts := by
  unfold State.CountsFit State.FrameWaits State.RestEmpty State.LeadEmpty State.PreambleCounts State.FieldCounts
  cases s.phase <;> cases s.frameReady <;> simp [CaptureCounts, and_comm]

theorem State.Inv.countsFit {s : State} (h : s.Inv) : s.CountsFit :=
  (countsFit_iff s).mpr ⟨h.frameWaits, h.restEmpty, h.leadEmpty, h.preambleCounts, h.fieldCounts⟩

theorem State.Inv.live {s : State} (h : s.Inv) : s.Live := h.noFault.1

/-- The row of the table for the phase the state is in. -/
theorem State.Inv.countsAt {s : State} (h : s.Inv) {p : Phase} (hp : s.phase = p) :
    CaptureCounts s.preCnt.toNat s.bbLen.toNat s.frameReady p := hp ▸ h.countsFit

/-- The invariants from their six parts: a rule that writes one part cites the others from the state before it. -/
theorem State.Inv.of_parts {s : State} (hf : s.NoFault) (hc : s.CountsFit) (hm : s.MarksShort)
    (hw : s.CountersBounded) (hk : s.KeysDistinct) (hr : s.FrameBounded) : s.Inv := by
  obtain ⟨hWaits, hRest, hLead, hPreamble, hField⟩ := (countsFit_iff s).mp hc
  exact ⟨hf, hWaits, hRest, hLead, hPreamble, hField, hm, hw, hk, hr⟩

/-- A capture in progress has no frame waiting (R38 (2)). -/
theorem State.Inv.frameReady_of_capturing {s : State} (h : s.Inv) (hp : s.phase.capturing = true) :
    s.frameReady = false := by
  by_contra hr
  obtain ⟨hrest | hrest, -⟩ := h.frameWaits (by simpa using hr) <;> simp [hrest, Phase.capturing] at hp

/-- An empty buffer has no entries to constrain. -/
theorem marksShort_of_empty {s : State} (h : s.bbLen = 0) : s.MarksShort := by
  intro i _ _ hi
  simp [h] at hi

/-- The invariants do not read the command interface. -/
theorem State.Inv.interface {s : State} (h : s.Inv) (inbox : List Stimulus) (resp : Option Word) :
    ({ s with inbox := inbox, resp := resp } : State).Inv :=
  .of_parts h.noFault h.countsFit h.marksShort h.countersBounded h.keysDistinct h.frameBounded

theorem State.Inv.respond {s : State} (h : s.Inv) (st : Status) (data : BitVec 24) : (respond st data s).Inv :=
  h.interface s.inbox _

theorem State.Inv.refuse {s : State} (h : s.Inv) (st : Status) : (refuse st s).Inv := h.respond st 0

/-! ## Power-on reset -/

theorem ceilDiv_le (a b : Nat) (ha : 1 ≤ a) : ceilDiv a b ≤ a := by
  obtain ⟨a, rfl⟩ := Nat.exists_eq_add_of_le' ha
  cases b with
  | zero => simp [ceilDiv]
  | succ b =>
    refine Nat.div_le_of_le_mul ?_
    calc a + 1 + (b + 1) - 1 = a + b + 1 := by omega
      _ ≤ (b + 1) * (a + 1) := by nlinarith [Nat.zero_le (a * b)]

/-- R212: the interval in ticks fits the 24 bits of `cfg_clr_ticks` and is at least 1. -/
theorem clrTicksFor_bounds (tovfUs ivl : Nat) (h : ivl < 2 ^ 24) :
    1 ≤ clrTicksFor tovfUs ivl ∧ clrTicksFor tovfUs ivl < 2 ^ 24 := by
  have hfloor : max ivl 83000 < 2 ^ 24 := by omega
  have hceil : ceilDiv (max ivl Config.clrFloorUs) tovfUs ≤ max ivl 83000 :=
    ceilDiv_le _ _ (le_max_of_le_right (by decide))
  unfold clrTicksFor
  omega

theorem toNat_clrTicksFor (tovfUs ivl : Nat) (h : ivl < 2 ^ 24) :
    (BitVec.ofNat 24 (clrTicksFor tovfUs ivl)).toNat = clrTicksFor tovfUs ivl :=
  Nat.mod_eq_of_lt (clrTicksFor_bounds tovfUs ivl h).2

/-- Counters at 0 are below any interval R212 gives. -/
theorem countersBounded_of_clrTicksFor {s : State} (ivl : Nat) (h : ivl < 2 ^ 24) (hi : s.idleTicks = 0)
    (hc : s.clrTicks = 0) (hcfg : s.cfgClrTicks = BitVec.ofNat 24 (clrTicksFor s.tovfUs ivl)) : s.CountersBounded := by
  have hpos := (clrTicksFor_bounds s.tovfUs ivl h).1
  rw [State.CountersBounded, hi, hc, hcfg, toNat_clrTicksFor _ _ h]
  exact ⟨by decide, hpos, hpos⟩

theorem heldKeys_replicate_free (n : Nat) (key : BitVec 16) :
    heldKeys (List.replicate n { valid := false, key := key }) = [] := by simp [heldKeys]

/-- R260: the power-on state has the ten invariants, whatever the build parameters. -/
theorem por_inv (b : Build) (inbox : List Stimulus) : ({ State.por b with inbox := inbox } : State).Inv :=
  .of_parts ⟨rfl, rfl⟩ ⟨rfl, rfl⟩ (marksShort_of_empty rfl)
    (countersBounded_of_clrTicksFor 0 (by decide) rfl rfl rfl)
    (by rw [State.KeysDistinct, State.por, heldKeys_replicate_free]; exact List.nodup_nil)
    ⟨Nat.zero_le _, Nat.zero_le _⟩

theorem powerOn_inv (s : State) : (powerOn s).Inv := por_inv s.build s.inbox

/-! ## Rules that keep the invariants, and INIT -/

/-- A command's own rule keeps the ten invariants and raises no fault. -/
def KeepsInv (rule : State → Except FaultCause State) : Prop := ∀ s : State, s.Inv → ∃ t, rule s = .ok t ∧ t.Inv

/-- A rule without a fault of its own. -/
theorem keepsInv_pure {f : State → State} (hf : ∀ s : State, s.Inv → (f s).Inv) : KeepsInv fun s => .ok (f s) :=
  fun s h => ⟨f s, rfl, hf s h⟩

theorem initRule_inv (ivl : BitVec 24) {s : State} (h : s.Inv) : (initRule ivl s).Inv :=
  .of_parts h.noFault ⟨rfl, rfl⟩ (marksShort_of_empty rfl)
    (countersBounded_of_clrTicksFor ivl.toNat ivl.isLt rfl rfl rfl) h.keysDistinct ⟨Nat.zero_le _, Nat.zero_le _⟩

/-! ## EDGE -/

/-- A counter below its largest value counts without wrapping. -/
theorem toNat_succ {w : Nat} (x : BitVec w) (h : x.toNat + 1 < 2 ^ w) : (x + 1).toNat = x.toNat + 1 := by
  have hone : (1 : BitVec w).toNat = 1 := (BitVec.toNat_ofNat 1 w).trans (Nat.mod_eq_of_lt (by omega))
  rw [BitVec.toNat_add_of_lt (hone.symm ▸ h), hone]

theorem resetWatchdog_inv {s : State} (h : s.Inv) : (resetWatchdog s).Inv := by
  obtain ⟨-, -, hcfg⟩ := h.countersBounded
  exact .of_parts h.noFault h.countsFit h.marksShort ⟨Nat.zero_le _, hcfg, hcfg⟩ h.keysDistinct h.frameBounded

/-- A capture discarded or begun anew: with no frame waiting the counters are 0 in each of the phases it restarts at. -/
theorem restartAt_inv {s : State} (h : s.Inv) (hr : s.frameReady = false) (p : Phase)
    (hp : p = .idle ∨ p = .leadingPulse) : (restartAt p s).Inv := by
  have hcounts : (restartAt p s).CountsFit := by
    obtain rfl | rfl := hp <;> simp [State.CountsFit, CaptureCounts, hr]
  exact .of_parts h.noFault hcounts (marksShort_of_empty rfl) h.countersBounded h.keysDistinct h.frameBounded

theorem startCapture_inv {s : State} (h : s.Inv) (hr : s.frameReady = false) : (startCapture s).Inv :=
  restartAt_inv h hr _ (.inr rfl)

theorem rejectReset_inv {s : State} (h : s.Inv) (hr : s.frameReady = false) : (rejectReset s).Inv :=
  restartAt_inv h hr _ (.inl rfl)

/-- A move to another phase that leaves the buffer: the new counts are what is to be shown. -/
theorem moveTo_inv {s : State} (h : s.Inv) (p : Phase) (pre : BitVec 6) (ready : Bool)
    (hc : CaptureCounts pre.toNat s.bbLen.toNat ready p) :
    ({ s with phase := p, preCnt := pre, frameReady := ready } : State).Inv :=
  .of_parts h.noFault hc h.marksShort h.countersBounded h.keysDistinct h.frameBounded

theorem leadingPulseStep_inv (dt : BitVec 16) {s : State} (h : s.Inv) (hp : s.phase = .leadingPulse) :
    (leadingPulseStep dt s).Inv := by
  have hc := h.countsAt hp
  unfold leadingPulseStep
  split_ifs
  · exact moveTo_inv h .leadingSpace s.preCnt s.frameReady hc
  · exact rejectReset_inv h hc.1

theorem leadingSpaceStep_inv (dt : BitVec 16) {s : State} (h : s.Inv) (hp : s.phase = .leadingSpace) :
    (leadingSpaceStep dt s).Inv := by
  obtain ⟨hr, -, hlen⟩ := h.countsAt hp
  unfold leadingSpaceStep
  split_ifs
  · exact moveTo_inv h .preamble 0 s.frameReady ⟨hr, .inl ⟨by decide, hlen⟩⟩
  · exact rejectReset_inv h hr

/-- R112: at each milestone `bb_len` is what the phase entered there starts from. -/
theorem captureCounts_milestone (n : BitVec 6) (len : Nat)
    (h : (n.toNat ≤ 40 ∧ len = 0) ∨ (40 < n.toNat ∧ n.toNat ≤ 44 ∧ len = 8) ∨
      (44 < n.toNat ∧ n.toNat ≤ 60 ∧ len = 36)) : CaptureCounts n.toNat len false (milestonePhase n) := by
  unfold milestonePhase Config.preH1 Config.preH2 Config.preH3
  split_ifs <;> refine ⟨rfl, ?_⟩ <;> omega

theorem preambleStep_inv (dt : BitVec 16) {s : State} (h : s.Inv) (hp : s.phase = .preamble) :
    (preambleStep dt s).Inv := by
  obtain ⟨hr, hcounts⟩ := h.countsAt hp
  unfold preambleStep
  split_ifs
  · exact rejectReset_inv h hr
  · have hsucc : (preCntSucc dt s.preCnt).toNat = s.preCnt.toNat + 1 := by
      rw [preCntSucc_of_lt dt s.preCnt (by omega), toNat_succ s.preCnt (by omega)]
    refine moveTo_inv h _ _ s.frameReady ?_
    rw [hr]
    exact captureCounts_milestone _ _ (by omega)

theorem finalPulseStep_inv (dt : BitVec 16) {s : State} (h : s.Inv) (hp : s.phase = .finalPulse) :
    (finalPulseStep dt s).Inv := by
  obtain ⟨hr, -, hlen⟩ := h.countsAt hp
  unfold finalPulseStep
  split_ifs
  · exact moveTo_inv h .cooldown 0 true ⟨rfl, hlen⟩
  · exact rejectReset_inv h hr

/-- R107, R113: a mark is never classified Long, so its entry is 0. -/
theorem entry_classify_mark (tickUs : Nat) (dt : BitVec 16) : (classify tickUs dt true).entry = false := by
  obtain ⟨-, h⟩ | ⟨-, hmark, -⟩ | ⟨-, -, h⟩ := classify_cases tickUs dt true
  · rw [h]; rfl
  · cases hmark
  · rw [h]; rfl

theorem leaveFieldAt_eq (limit : Nat) (next : Phase) (s : State) :
    leaveFieldAt limit next s = { s with phase := if s.bbLen.toNat = limit then next else s.phase } := by
  unfold leaveFieldAt
  split_ifs <;> rfl

/-- R38 (7) after an append that enters 0 at even places. -/
theorem marksShort_append {s : State} (h : s.MarksShort) (hroom : s.bbLen.toNat < 36) (b : Bool)
    (hb : s.bbLen.toNat % 2 = 0 → b = false) (p : Phase) :
    ({ s with bb := bbWrite s.bb s.bbLen.toNat b, bbLen := s.bbLen + 1, phase := p } : State).MarksShort := by
  intro i hi heven hlt
  have hlen : (s.bbLen + 1).toNat = s.bbLen.toNat + 1 := toNat_succ s.bbLen (by omega)
  change bbRead (bbWrite s.bb s.bbLen.toNat b) i = false
  by_cases hnew : i = s.bbLen.toNat
  · subst hnew
    rw [bbRead_bbWrite_self _ _ _ hroom, hb heven]
  · rw [bbRead_bbWrite_other _ _ _ _ hnew]
    exact h i hi heven (by simp only [hlen] at hlt; omega)

/-- R113: with room in the buffer a field phase raises no fault; the counts after the append are what is to be shown. -/
theorem fieldStep_inv (dt : BitVec 16) (limit : Nat) (next : Phase) {s : State} (h : s.Inv) (hr : s.frameReady = false)
    (hroom : s.bbLen.toNat < 36)
    (hc : CaptureCounts s.preCnt.toNat (s.bbLen.toNat + 1) s.frameReady
      (if s.bbLen.toNat + 1 = limit then next else s.phase)) :
    ∃ t, fieldStep dt limit next s = .ok t ∧ t.Inv := by
  have hlen : (s.bbLen + 1).toNat = s.bbLen.toNat + 1 := toNat_succ s.bbLen (by omega)
  unfold fieldStep
  split_ifs
  · exact ⟨_, rfl, rejectReset_inv h hr⟩
  · rw [append_room _ s hroom]
    refine ⟨_, rfl, ?_⟩
    rw [leaveFieldAt_eq]
    refine .of_parts h.noFault ?_ (marksShort_append h.marksShort hroom _ ?_ _) h.countersBounded h.keysDistinct
      h.frameBounded
    · simpa only [State.CountsFit, hlen] using hc
    · intro heven
      simp [fieldMark, heven, entry_classify_mark]

/-- R109 to R117: the transition of every phase. -/
theorem phaseStep_inv (dt : BitVec 16) {s : State} (h : s.Inv) (hr : s.frameReady = false) :
    ∃ t, phaseStep dt s = .ok t ∧ t.Inv := by
  unfold phaseStep
  cases hp : s.phase with
  | idle => exact ⟨_, rfl, startCapture_inv h hr⟩
  | leadingPulse => exact ⟨_, rfl, leadingPulseStep_inv dt h hp⟩
  | leadingSpace => exact ⟨_, rfl, leadingSpaceStep_inv dt h hp⟩
  | preamble => exact ⟨_, rfl, preambleStep_inv dt h hp⟩
  | systemCodeField =>
    obtain ⟨-, hpre, hlen⟩ := h.countsAt hp
    refine fieldStep_inv dt 8 .preamble h hr (by omega) ?_
    rw [hp, hr]
    split_ifs <;> simp only [CaptureCounts, true_and] <;> omega
  | addressField =>
    obtain ⟨-, hpre, hlow, hlen⟩ := h.countsAt hp
    refine fieldStep_inv dt 20 .commandField h hr (by omega) ?_
    rw [hp, hr]
    split_ifs <;> simp only [CaptureCounts, true_and] <;> omega
  | commandField =>
    obtain ⟨-, hpre, hlow, hlen⟩ := h.countsAt hp
    refine fieldStep_inv dt 36 .preamble h hr (by omega) ?_
    rw [hp, hr]
    split_ifs <;> simp only [CaptureCounts, true_and] <;> omega
  | finalPulse => exact ⟨_, rfl, finalPulseStep_inv dt h hp⟩
  | cooldown => exact ⟨_, rfl, startCapture_inv h hr⟩

theorem edgeRule_keepsInv (dt : BitVec 16) : KeepsInv (edgeRule dt) := by
  intro s h
  have h' : (respond .ok 0 (resetWatchdog s)).Inv := (resetWatchdog_inv h).respond .ok 0
  unfold edgeRule acquire
  split_ifs with hr
  · exact ⟨_, rfl, h'⟩
  · exact phaseStep_inv dt h' (by simpa using hr)

/-! ## TICK -/

/-- The timeout at rest enters Idle with the counts it finds. -/
theorem captureCounts_idle {pre len : Nat} {ready : Bool} {p : Phase} (hc : CaptureCounts pre len ready p)
    (hp : p.capturing = false) : CaptureCounts pre len ready .idle := by
  cases p <;> simp [Phase.capturing] at hp <;> exact hc

theorem timeout_inv {s : State} (h : s.Inv) : (timeout s).Inv := by
  cases hp : s.phase.capturing with
  | true =>
    rw [timeout_capturing s hp]
    have h' := restartAt_inv h (h.frameReady_of_capturing hp) .idle (.inl rfl)
    exact .of_parts h'.noFault h'.countsFit h'.marksShort h'.countersBounded h'.keysDistinct h'.frameBounded
  | false =>
    rw [timeout_resting s hp]
    exact .of_parts h.noFault (captureCounts_idle h.countsFit hp) h.marksShort h.countersBounded h.keysDistinct
      h.frameBounded

theorem countIdle_inv {s : State} (h : s.Inv) : (countIdle s).Inv := by
  obtain ⟨-, hclr⟩ := h.countersBounded
  have hcounted : ({ s with idleTicks := s.idleTicks + 1 } : State).Inv :=
    .of_parts h.noFault h.countsFit h.marksShort ⟨by have := (s.idleTicks + 1).isLt; omega, hclr⟩ h.keysDistinct
      h.frameBounded
  unfold countIdle
  split_ifs
  · exact timeout_inv hcounted
  · exact hcounted
  · exact h

theorem countClear_inv {s : State} (h : s.Inv) : (countClear s).Inv := by
  obtain ⟨hidle, -, hcfg⟩ := h.countersBounded
  unfold countClear
  split_ifs with hdue
  · exact .of_parts h.noFault h.countsFit h.marksShort ⟨hidle, hcfg, hcfg⟩ h.keysDistinct h.frameBounded
  · have hsucc : (s.clrTicks + 1).toNat < s.cfgClrTicks.toNat := by
      rw [toNat_succ s.clrTicks (by omega)]
      omega
    exact .of_parts h.noFault h.countsFit h.marksShort ⟨hidle, hsucc, hcfg⟩ h.keysDistinct h.frameBounded

theorem tickRule_inv {s : State} (h : s.Inv) : (tickRule s).Inv := countClear_inv (countIdle_inv (h.respond .ok 0))

/-! ## POLL -/

/-- At rest the buffer may be emptied with no frame waiting: by the clear service or by consuming the frame. -/
theorem captureCounts_rest {pre len : Nat} {ready : Bool} {p : Phase} (hc : CaptureCounts pre len ready p)
    (hp : p.capturing = false) : CaptureCounts pre 0 false p := by
  cases p <;> simp [Phase.capturing] at hp <;> exact ⟨hc.1, rfl⟩

theorem clearService_inv {s : State} (h : s.Inv) : (clearService s).Inv := by
  unfold clearService
  split_ifs with hdue
  · obtain ⟨-, hrest, hr⟩ := (clearServiceDue_iff s).mp hdue
    have hcounts : CaptureCounts s.preCnt.toNat 0 s.frameReady s.phase := by
      rw [hr]
      exact captureCounts_rest h.countsFit hrest
    exact .of_parts h.noFault hcounts (marksShort_of_empty rfl) h.countersBounded h.keysDistinct h.frameBounded
  · exact h

theorem consumeFrame_inv {s : State} (h : s.Inv) (hr : s.frameReady = true) : (consumeFrame s).Inv := by
  have hrest : s.phase.capturing = false := by
    by_contra hp
    rw [h.frameReady_of_capturing (by simpa using hp)] at hr
    cases hr
  exact .of_parts h.noFault (captureCounts_rest h.countsFit hrest) (marksShort_of_empty rfl) h.countersBounded
    h.keysDistinct h.frameBounded

theorem takeFrame_inv {s : State} (h : s.Inv) (hr : s.frameReady = true) : (takeFrame s).Inv := by
  have h' := consumeFrame_inv h hr
  unfold takeFrame
  split_ifs
  · exact h'.respond _ _
  · exact .of_parts h'.noFault h'.countsFit h'.marksShort h'.countersBounded h'.keysDistinct
      ⟨decodedSys_le s.bb, decodedAddr_le s.bb⟩

theorem reportLevel_inv {s : State} (h : s.Inv) : (reportLevel s).Inv := by
  unfold reportLevel
  split_ifs <;> exact h.respond _ _

/-- R234: by invariant (2) a waiting frame is complete, so POLL finds no malformed one. -/
theorem pollFrame_keepsInv : KeepsInv pollFrame := by
  intro s h
  unfold pollFrame
  by_cases hr : s.frameReady = true
  · obtain ⟨-, hfull⟩ := h.frameWaits hr
    simp only [hr, hfull, if_true]
    exact ⟨_, rfl, takeFrame_inv h hr⟩
  · simp only [hr, if_false, Bool.false_eq_true]
    exact ⟨_, rfl, reportLevel_inv h⟩

theorem pollRule_keepsInv : KeepsInv pollRule := fun s h => pollFrame_keepsInv (clearService s) (clearService_inv h)

/-! ## DISABLE and ENABLE -/

/-- R195: filling a slot with a key that is not held keeps the keys distinct. -/
theorem nodup_heldKeys_fillLowestFree (key : BitVec 16) (reg reg' : List Slot) (h : (heldKeys reg).Nodup)
    (habsent : key ∉ heldKeys reg) (hfill : fillLowestFree key reg = some reg') : (heldKeys reg').Nodup := by
  obtain ⟨hnone, -⟩ | ⟨pre, sl, post, rfl, -, hfree, hsome⟩ := fillLowestFree_cases key reg
  · rw [hnone] at hfill
    cases hfill
  · obtain rfl : pre ++ { valid := true, key := key } :: post = reg' := Option.some.inj (hsome.symm.trans hfill)
    rw [heldKeys_append, heldKeys_cons_free _ _ hfree, ← heldKeys_append] at h habsent
    rw [heldKeys_append, heldKeys_cons_valid, List.nodup_middle, ← heldKeys_append, List.nodup_cons]
    exact ⟨habsent, h⟩

/-- R193: clearing a valid bit leaves some of the keys. -/
theorem heldKeys_dropKey_sublist (key : BitVec 16) (reg : List Slot) :
    (heldKeys (dropKey key reg)).Sublist (heldKeys reg) := by
  obtain ⟨hsame, -⟩ | ⟨pre, post, rfl, -, hdrop⟩ := dropKey_cases key reg
  · rw [hsame]
  · rw [hdrop, heldKeys_append, heldKeys_append, heldKeys_cons_free _ _ rfl, heldKeys_cons_valid]
    exact (List.sublist_cons_self _ _).append_left _

/-- A new registry with distinct keys; no other invariant reads it. -/
theorem State.Inv.withReg {s : State} (h : s.Inv) {reg : List Slot} (hk : (heldKeys reg).Nodup) :
    ({ s with reg := reg } : State).Inv :=
  .of_parts h.noFault h.countsFit h.marksShort h.countersBounded hk h.frameBounded

theorem disableRule_inv (sys cmd : BitVec 8) {s : State} (h : s.Inv) : (disableRule sys cmd s).Inv := by
  unfold disableRule
  split_ifs with hheld
  · exact h.respond _ _
  · have habsent : pairKey sys cmd ∉ heldKeys s.reg := by
      rw [mem_heldKeys_iff]
      exact fun hmem => hheld ((containsPair_iff s.reg sys cmd).mpr hmem)
    cases hfill : fillLowestFree (pairKey sys cmd) s.reg with
    | none => exact h.respond _ _
    | some reg => exact (h.withReg (nodup_heldKeys_fillLowestFree _ _ _ h.keysDistinct habsent hfill)).respond _ _

theorem enableRule_inv (sys cmd : BitVec 8) {s : State} (h : s.Inv) : (enableRule sys cmd s).Inv := by
  unfold enableRule
  split_ifs
  · exact (h.withReg (h.keysDistinct.sublist (heldKeys_dropKey_sublist _ _))).respond _ _
  · exact h.respond _ _

/-! ## Every step -/

theorem runCommand_inv {rule : State → Except FaultCause State} (hrule : KeepsInv rule) {s t : State} (h : s.Inv)
    (ht : runCommand rule s = .next t) : t.Inv := by
  obtain ⟨u, hu, hinv⟩ := hrule s h
  rw [runCommand_live rule s h.live, complete_ok hu] at ht
  cases ht
  exact hinv

theorem runEvent_inv {rule : State → Except FaultCause State} (hrule : KeepsInv rule) {s t : State} (h : s.Inv)
    (ht : runEvent rule s = .next t) : t.Inv := by
  cases hconf : s.configured with
  | true =>
    obtain ⟨u, hu, hinv⟩ := hrule s h
    rw [runEvent_active rule s h.live hconf, complete_ok hu] at ht
    cases ht
    exact hinv
  | false =>
    rw [runEvent_unconfigured rule s h.live hconf] at ht
    cases ht
    exact h.refuse _

theorem refuseIllegal_inv {s t : State} (h : s.Inv) (ht : refuseIllegal s = .next t) : t.Inv := by
  rw [refuseIllegal_live s h.live] at ht
  cases ht
  exact h.refuse _

/-- R38: every instruction keeps the ten invariants. -/
theorem exec_keeps_inv (i : Instr) {s t : State} (h : s.Inv) (ht : exec i s = .next t) : t.Inv := by
  cases i with
  | nop => exact runCommand_inv (keepsInv_pure fun _ hs => hs.respond _ _) h ht
  | init ivl => exact runCommand_inv (keepsInv_pure fun _ hs => initRule_inv ivl hs) h ht
  | edge dt => exact runEvent_inv (edgeRule_keepsInv dt) h ht
  | tick => exact runEvent_inv (keepsInv_pure fun _ hs => tickRule_inv hs) h ht
  | poll => exact runCommand_inv pollRule_keepsInv h ht
  | disable sys cmd => exact runCommand_inv (keepsInv_pure fun _ hs => disableRule_inv sys cmd hs) h ht
  | enable sys cmd => exact runCommand_inv (keepsInv_pure fun _ hs => enableRule_inv sys cmd hs) h ht
  | contains sys cmd => exact runCommand_inv (keepsInv_pure fun _ hs => hs.respond _ _) h ht
  | readFrame => exact runCommand_inv (keepsInv_pure fun _ hs => hs.respond _ _) h ht
  | readStatus =>
    cases ht
    exact h.respond _ _
  | reservedAB op rest => exact refuseIllegal_inv h ht
  | reservedCF op rest => exact refuseIllegal_inv h ht

theorem runWord_keeps_inv (w : Word) {s t : State} (h : s.Inv) (ht : runWord w s = .next t) : t.Inv := by
  unfold runWord at ht
  cases hw : decode w with
  | command i =>
    rw [hw] at ht
    exact exec_keeps_inv i h ht
  | illegal r =>
    rw [hw] at ht
    exact refuseIllegal_inv h ht

/-- R38: every step keeps the ten invariants, whatever is presented. -/
theorem step_keeps_inv {s t : State} (h : s.Inv) (ht : step s = .next t) : t.Inv := by
  cases hin : s.inbox with
  | nil =>
    rw [step_nil s hin] at ht
    cases ht
    exact h.interface s.inbox none
  | cons x rest =>
    cases x with
    | powerOnReset =>
      rw [step_powerOnReset s rest hin] at ht
      cases ht
      exact powerOn_inv _
    | command w =>
      rw [step_word s w rest hin] at ht
      exact runWord_keeps_inv w (h.interface rest s.resp) ht

theorem Reachable.inv {s : State} (hs : Reachable s) : s.Inv := by
  induction hs with
  | por b _ inbox => exact por_inv b inbox
  | step s t _ ht ih => exact step_keeps_inv ih ht

/-- The registry holds at most one key per slot. -/
theorem length_heldKeys_le (reg : List Slot) : (heldKeys reg).length ≤ reg.length := by
  rw [heldKeys, List.length_map]
  exact List.length_filter_le _ _

/-- Settles O57, by induction over the steps from power-on reset: each keeps the ten invariants. -/
theorem reachableStatesSatisfyInvariants : Obligations.ReachableStatesSatisfyInvariants := by
  unfold Obligations.ReachableStatesSatisfyInvariants
  intro s hs
  exact ⟨hs.inv, hs.inv.live, length_heldKeys_le s.reg⟩

end Sys2Proof.Machine

/-! # Words of commands and words of responses (spec/30_encoding.md)

Both forms of R74, fields and masks, are read as one predicate, `CommandFields`. A response word is laid out as a command
word is, STATUS where OP stands, so the field lemmas of `commandWord` read it (R71). Every rule leaves such a word
(`Answers`), and the checks of R216 and the decoder pass this on. -/

namespace Sys2Proof.Machine

/-! ## The legal words (R74) -/

/-- R74 by its field conditions, for a word of opcode `op`. -/
def CommandFields (op : Nat) (w : Word) : Prop :=
  op ≤ 9 ∧ rsvOf w = 0 ∧ (op ∈ [0x0, 0x3, 0x4, 0x8, 0x9] → opdOf w = 0) ∧
    (op ∈ [0x2, 0x5, 0x6, 0x7] → opdHighOf w = 0)

theorem exists_decodePlain_iff {w : Word} {i : Instr} (hi : i.isCommand = true) :
    (∃ j, decodePlain w i = .command j ∧ j.isCommand = true) ↔ rsvOf w = 0 ∧ opdOf w = 0 := by
  simp only [decodePlain_command_iff]
  exact ⟨fun ⟨_, ⟨hr, ho, _⟩, _⟩ => ⟨hr, ho⟩, fun ⟨hr, ho⟩ => ⟨i, ⟨hr, ho, rfl⟩, hi⟩⟩

theorem exists_decodeNarrow_iff {w : Word} {i : Instr} (hi : i.isCommand = true) :
    (∃ j, decodeNarrow w i = .command j ∧ j.isCommand = true) ↔ rsvOf w = 0 ∧ opdHighOf w = 0 := by
  simp only [decodeNarrow_command_iff]
  exact ⟨fun ⟨_, ⟨hr, ho, _⟩, _⟩ => ⟨hr, ho⟩, fun ⟨hr, ho⟩ => ⟨i, ⟨hr, ho, rfl⟩, hi⟩⟩

theorem exists_decodeWide_iff {w : Word} {i : Instr} (hi : i.isCommand = true) :
    (∃ j, decodeWide w i = .command j ∧ j.isCommand = true) ↔ rsvOf w = 0 := by
  simp only [decodeWide_command_iff]
  exact ⟨fun ⟨_, ⟨hr, _⟩, _⟩ => hr, fun hr => ⟨i, ⟨hr, rfl⟩, hi⟩⟩

/-- R74, R85: the arms of the decoder by format, then the RESERVED rows, whose words spell no command. -/
theorem exists_decode_command_iff (w : Word) :
    (∃ i, decode w = .command i ∧ i.isCommand = true) ↔ CommandFields (opOf w).toNat w := by
  unfold decode
  split
  case h_1 h | h_4 h | h_5 h | h_9 h | h_10 h =>
    rw [exists_decodePlain_iff rfl]
    simp [CommandFields, h]
  case h_3 h | h_6 h | h_7 h | h_8 h =>
    rw [exists_decodeNarrow_iff rfl]
    simp [CommandFields, h]
  case h_2 h =>
    rw [exists_decodeWide_iff rfl]
    simp [CommandFields, h]
  case h_11 h | h_12 h =>
    simp [CommandFields, h, Instr.isCommand]
  case h_13 =>
    have hop : ¬(opOf w).toNat ≤ 9 := by
      simp only [imp_false] at *
      omega
    simp [CommandFields, hop, Instr.isCommand]

/-- The fixed bits of a row with no operand (R74). -/
theorem and_plainMask_eq_iff (w p : Word) (hp : p.toNat % 2 ^ 28 = 0) :
    w &&& 0xFFFFFFFF#32 = p ↔ (opOf w).toNat = p.toNat / 2 ^ 28 ∧ rsvOf w = 0 ∧ opdOf w = 0 := by
  have hfields := word_fields w
  have hrsv := (rsvOf w).isLt
  have hopd := (opdOf w).isLt
  have hmask : w &&& 0xFFFFFFFF#32 = p ↔ w.toNat / 2 ^ 0 = p.toNat / 2 ^ 0 :=
    and_highMask_eq_iff w p 0 (Nat.mod_one _)
  simp only [hmask, ← BitVec.toNat_inj, BitVec.toNat_ofNat, BitVec.ofNat_eq_ofNat]
  omega

/-- The fixed bits of a row with a 16-bit operand (R74). -/
theorem and_narrowMask_eq_iff (w p : Word) (hp : p.toNat % 2 ^ 28 = 0) :
    w &&& 0xFFFF0000#32 = p ↔ (opOf w).toNat = p.toNat / 2 ^ 28 ∧ rsvOf w = 0 ∧ opdHighOf w = 0 := by
  have hfields := word_fields w
  have hhigh := opd_fields w
  have hrsv := (rsvOf w).isLt
  have hopd := (opdOf w).isLt
  have hdt := (dtOf w).isLt
  have hmask : w &&& 0xFFFF0000#32 = p ↔ w.toNat / 2 ^ 16 = p.toNat / 2 ^ 16 :=
    and_highMask_eq_iff w p 16 (by omega)
  simp only [hmask, ← BitVec.toNat_inj, BitVec.toNat_ofNat, BitVec.ofNat_eq_ofNat]
  omega

/-- The fixed bits of the row of INIT (R74). -/
theorem and_wideMask_eq_iff (w p : Word) (hp : p.toNat % 2 ^ 28 = 0) :
    w &&& 0xFF000000#32 = p ↔ (opOf w).toNat = p.toNat / 2 ^ 28 ∧ rsvOf w = 0 := by
  have hfields := word_fields w
  have hrsv := (rsvOf w).isLt
  have hopd := (opdOf w).isLt
  have hmask : w &&& 0xFF000000#32 = p ↔ w.toNat / 2 ^ 24 = p.toNat / 2 ^ 24 :=
    and_highMask_eq_iff w p 24 (by omega)
  simp only [hmask, ← BitVec.toNat_inj, BitVec.toNat_ofNat, BitVec.ofNat_eq_ofNat]
  omega

/-- R74: the masks of the table leave the same words as the field conditions, row by row. -/
theorem exists_commandRow_iff (w : Word) :
    (∃ r ∈ commandRows, w &&& r.mask = r.pattern) ↔ CommandFields (opOf w).toNat w := by
  simp only [commandRows, List.exists_mem_cons_iff, List.not_mem_nil, false_and, exists_false, or_false]
  simp only [and_plainMask_eq_iff, and_narrowMask_eq_iff, and_wideMask_eq_iff, BitVec.toNat_ofNat,
    Nat.reducePow, Nat.reduceMod, Nat.reduceDiv]
  unfold CommandFields
  generalize (opOf w).toNat = op
  by_cases hop : op ≤ 9
  · interval_cases op <;> simp
  · simp only [hop, false_and, iff_false]
    omega

/-- Settles O3: the decoder and the table's masks each pick out the words of `CommandFields`. -/
theorem legalWordsAreTheTableRows : Obligations.LegalWordsAreTheTableRows := by
  unfold Obligations.LegalWordsAreTheTableRows
  intro w
  exact ⟨exists_decode_command_iff w, (exists_decode_command_iff w).trans (exists_commandRow_iff w).symm⟩

/-! ## The fields of a response (R71) -/

theorem response_status (st : Status) (data : BitVec 24) : (response st data).extractLsb' 28 4 = st.code :=
  opOf_commandWord st.code data

theorem response_zeros (st : Status) (data : BitVec 24) : (response st data).extractLsb' 24 4 = 0 :=
  rsvOf_commandWord st.code data

theorem response_data (st : Status) (data : BitVec 24) : (response st data).extractLsb' 0 24 = data :=
  opdOf_commandWord st.code data

/-- A field of DATA. -/
theorem extractLsb'_response (st : Status) (data : BitVec 24) (lo n : Nat) (h : lo + n ≤ 24) :
    (response st data).extractLsb' lo n = data.extractLsb' lo n := by
  rw [← BitVec.extractLsb'_extractLsb'_of_le h, response_data]

/-- A bit of DATA. -/
theorem getLsbD_response (st : Status) (data : BitVec 24) (i : Nat) (h : i < 24) :
    (response st data).getLsbD i = data.getLsbD i := by
  conv_rhs => rw [← response_data st data]
  simp [h]

/-- The byte above DATA is STATUS and zeros, so all 0 in an OK response. -/
theorem response_ok_high (data : BitVec 24) : (response .ok data).extractLsb' 24 8 = 0 := by
  apply BitVec.eq_of_toNat_eq
  have hdata := data.isLt
  have hword : (response .ok data).toNat = 0 * 2 ^ 28 + data.toNat := toNat_commandWord 0 data
  rw [toNat_field, hword, BitVec.ofNat_eq_ofNat, BitVec.toNat_zero]
  omega

theorem Status.code_le (st : Status) : st.code.toNat ≤ 4 := by cases st <;> decide

/-! ## READ_FRAME and READ_STATUS (R81, R82) -/

theorem frameData_fields (s : State) :
    (frameData s).extractLsb' 16 8 = s.resSys ∧ (frameData s).extractLsb' 8 8 = s.resAddr ∧
      (frameData s).extractLsb' 0 8 = s.resCmd :=
  ⟨BitVec.extractLsb'_append_eq_left,
    (BitVec.extractLsb'_append_eq_of_add_le (by decide)).trans BitVec.extractLsb'_append_eq_left,
    (BitVec.extractLsb'_append_eq_of_add_le (by decide)).trans BitVec.extractLsb'_append_eq_right⟩

/-- Settles O47. -/
theorem readFrameReturnsTheDecodedFrame : Obligations.ReadFrameReturnsTheDecodedFrame := by
  unfold Obligations.ReadFrameReturnsTheDecodedFrame
  intro s hlive
  obtain ⟨hsys, haddr, hcmd⟩ := frameData_fields s
  refine ⟨response .ok (frameData s), runCommand_live _ s hlive, response_ok_high _, ?_, ?_, ?_⟩
  · rw [extractLsb'_response _ _ 16 8 (by decide), hsys]
  · rw [extractLsb'_response _ _ 8 8 (by decide), haddr]
  · rw [extractLsb'_response _ _ 0 8 (by decide), hcmd]

/-- R82: the fields of several bits. -/
theorem statusData_fields (s : State) :
    (statusData s).extractLsb' 20 4 = s.faultCode ∧ (statusData s).extractLsb' 14 6 = s.preCnt ∧
      (statusData s).extractLsb' 8 6 = s.bbLen ∧ (statusData s).extractLsb' 0 4 = s.phase.code := by
  unfold statusData
  refine ⟨BitVec.extractLsb'_append_eq_left, ?_, ?_, ?_⟩
  · rw [BitVec.extractLsb'_append_eq_of_add_le (by decide), BitVec.extractLsb'_append_eq_left]
  · iterate 2 rw [BitVec.extractLsb'_append_eq_of_add_le (by decide)]
    rw [BitVec.extractLsb'_append_eq_left]
  · iterate 6 rw [BitVec.extractLsb'_append_eq_of_add_le (by decide)]
    rw [BitVec.extractLsb'_append_eq_right]

/-- R82: the flags. -/
theorem statusData_flags (s : State) :
    (statusData s).getLsbD 7 = s.fault ∧ (statusData s).getLsbD 6 = s.clearReq ∧ (statusData s).getLsbD 5 = s.avail ∧
      (statusData s).getLsbD 4 = s.frameReady := by
  simp only [statusData, BitVec.getLsbD_append]
  simp

/-- Settles O21. -/
theorem readStatusPacksTheStatusWord : Obligations.ReadStatusPacksTheStatusWord := by
  unfold Obligations.ReadStatusPacksTheStatusWord
  intro s
  obtain ⟨hcode, hpre, hlen, hphase⟩ := statusData_fields s
  obtain ⟨hfault, hclear, havail, hready⟩ := statusData_flags s
  refine ⟨response .ok (statusData s), rfl, response_ok_high _, ?_, ?_, ?_, ?_, ?_, ?_, ?_, ?_⟩
  · rw [extractLsb'_response _ _ 20 4 (by decide), hcode]
  · rw [extractLsb'_response _ _ 14 6 (by decide), hpre]
  · rw [extractLsb'_response _ _ 8 6 (by decide), hlen]
  · rw [getLsbD_response _ _ 7 (by decide), hfault]
  · rw [getLsbD_response _ _ 6 (by decide), hclear]
  · rw [getLsbD_response _ _ 5 (by decide), havail]
  · rw [getLsbD_response _ _ 4 (by decide), hready]
  · rw [extractLsb'_response _ _ 0 4 (by decide), hphase]

/-! ## Every command answers (R71) -/

/-- The response register holds a word of the layout of R71, and only an OK response carries data. -/
def State.Answered (t : State) : Prop := ∃ st data, t.resp = some (response st data) ∧ (st = .ok ∨ data = 0)

theorem respond_ok_answered (data : BitVec 24) (s : State) : (respond .ok data s).Answered :=
  ⟨.ok, data, rfl, .inl rfl⟩

theorem refuse_answered (st : Status) (s : State) : (refuse st s).Answered := ⟨st, 0, rfl, .inr rfl⟩

theorem takeFault_answered (c : FaultCause) (s : State) : (takeFault c s).Answered := ⟨.faulted, 0, rfl, .inr rfl⟩

/-- A state with the response of an answered one. -/
theorem State.Answered.of_resp {s t : State} (h : s.Answered) (hr : t.resp = s.resp) : t.Answered := by
  unfold State.Answered
  rw [hr]
  exact h

/-- A rule that runs to its end has answered. -/
def Answers (rule : State → Except FaultCause State) : Prop := ∀ s t : State, rule s = .ok t → t.Answered

theorem answers_pure {f : State → State} (hf : ∀ s, (f s).Answered) : Answers fun s => .ok (f s) := by
  intro s t ht
  cases ht
  exact hf s

theorem Answers.complete {rule : State → Except FaultCause State} (h : Answers rule) (s : State) :
    (complete rule s).Answered := by
  cases hr : rule s with
  | ok t =>
    rw [complete_ok hr]
    exact h s t hr
  | error c =>
    rw [complete_error hr]
    exact takeFault_answered c s

theorem Answers.runCommand {rule : State → Except FaultCause State} (h : Answers rule) {s t : State}
    (ht : runCommand rule s = .next t) : t.Answered := by
  cases hf : s.fault with
  | true =>
    rw [runCommand_faulted rule s hf] at ht
    cases ht
    exact refuse_answered _ s
  | false =>
    rw [runCommand_live rule s hf] at ht
    cases ht
    exact h.complete s

theorem Answers.runEvent {rule : State → Except FaultCause State} (h : Answers rule) {s t : State}
    (ht : runEvent rule s = .next t) : t.Answered := by
  cases hf : s.fault with
  | true =>
    rw [runEvent_faulted rule s hf] at ht
    cases ht
    exact refuse_answered _ s
  | false =>
    cases hc : s.configured with
    | true =>
      rw [runEvent_active rule s hf hc] at ht
      cases ht
      exact h.complete s
    | false =>
      rw [runEvent_unconfigured rule s hf hc] at ht
      cases ht
      exact refuse_answered _ s

theorem refuseIllegal_answered {s t : State} (ht : refuseIllegal s = .next t) : t.Answered := by
  cases hf : s.fault with
  | true =>
    rw [refuseIllegal_faulted s hf] at ht
    cases ht
    exact refuse_answered _ s
  | false =>
    rw [refuseIllegal_live s hf] at ht
    cases ht
    exact refuse_answered _ s

/-! ### EDGE and TICK answer first: what follows leaves the response -/

theorem fieldStep_resp {dt : BitVec 16} {limit : Nat} {next : Phase} {s t : State}
    (ht : fieldStep dt limit next s = .ok t) : t.resp = s.resp := by
  unfold fieldStep at ht
  split_ifs at ht
  · cases ht
    rfl
  · by_cases hroom : s.bbLen.toNat < 36
    · rw [append_room _ s hroom] at ht
      cases ht
      rw [leaveFieldAt_eq]
    · rw [append_full _ s (by omega)] at ht
      cases ht

theorem phaseStep_resp {dt : BitVec 16} {s t : State} (ht : phaseStep dt s = .ok t) : t.resp = s.resp := by
  unfold phaseStep at ht
  cases hp : s.phase <;> rw [hp] at ht
  case systemCodeField | addressField | commandField => exact fieldStep_resp ht
  case idle | cooldown =>
    cases ht
    rfl
  case leadingPulse | leadingSpace | preamble | finalPulse =>
    cases ht
    simp only [leadingPulseStep, leadingSpaceStep, preambleStep, finalPulseStep]
    split_ifs <;> rfl

theorem edgeRule_answers (dt : BitVec 16) : Answers (edgeRule dt) := by
  intro s t ht
  unfold edgeRule acquire at ht
  refine (respond_ok_answered 0 (resetWatchdog s)).of_resp ?_
  split_ifs at ht
  · cases ht
    rfl
  · exact phaseStep_resp ht

theorem countIdle_resp (s : State) : (countIdle s).resp = s.resp := by
  unfold countIdle timeout
  split_ifs <;> rfl

theorem countClear_resp (s : State) : (countClear s).resp = s.resp := by
  unfold countClear
  split_ifs <;> rfl

theorem tickRule_answered (s : State) : (tickRule s).Answered :=
  (respond_ok_answered 0 s).of_resp ((countClear_resp _).trans (countIdle_resp _))

/-! ### The other rules answer last -/

theorem pollRule_answers : Answers pollRule := by
  intro s t ht
  unfold pollRule pollFrame takeFrame reportLevel at ht
  split_ifs at ht <;> cases ht <;> exact respond_ok_answered _ _

theorem disableRule_answered (sys cmd : BitVec 8) (s : State) : (disableRule sys cmd s).Answered := by
  unfold disableRule
  split_ifs
  · exact respond_ok_answered _ _
  · cases fillLowestFree (pairKey sys cmd) s.reg with
    | some reg => exact respond_ok_answered _ _
    | none => exact refuse_answered .regFull s

theorem enableRule_answered (sys cmd : BitVec 8) (s : State) : (enableRule sys cmd s).Answered := by
  unfold enableRule
  split_ifs <;> exact respond_ok_answered _ _

/-! ### Every word -/

theorem exec_answered (i : Instr) {s t : State} (ht : exec i s = .next t) : t.Answered := by
  cases i with
  | nop => exact (answers_pure fun _ => respond_ok_answered _ _).runCommand ht
  | init ivl => exact (answers_pure fun _ => respond_ok_answered _ _).runCommand ht
  | edge dt => exact (edgeRule_answers dt).runEvent ht
  | tick => exact (answers_pure tickRule_answered).runEvent ht
  | poll => exact pollRule_answers.runCommand ht
  | disable sys cmd => exact (answers_pure (disableRule_answered sys cmd)).runCommand ht
  | enable sys cmd => exact (answers_pure (enableRule_answered sys cmd)).runCommand ht
  | contains sys cmd => exact (answers_pure fun _ => respond_ok_answered _ _).runCommand ht
  | readFrame => exact (answers_pure fun _ => respond_ok_answered _ _).runCommand ht
  | readStatus =>
    cases ht
    exact respond_ok_answered _ s
  | reservedAB op rest => exact refuseIllegal_answered ht
  | reservedCF op rest => exact refuseIllegal_answered ht

theorem runWord_answered (w : Word) {s t : State} (ht : runWord w s = .next t) : t.Answered := by
  unfold runWord at ht
  cases hw : decode w with
  | command i =>
    rw [hw] at ht
    exact exec_answered i ht
  | illegal why =>
    rw [hw] at ht
    exact refuseIllegal_answered ht


/-- Settles O11: every command leaves the response of `State.Answered`, whose fields are those of R71; an OK response, the
only one with data, has a STATUS of 0. -/
theorem everyCommandReturnsOneResponseWord : Obligations.EveryCommandReturnsOneResponseWord := by
  unfold Obligations.EveryCommandReturnsOneResponseWord
  intro s t w rest hin ht
  rw [step_word s w rest hin] at ht
  obtain ⟨st, data, hresp, hdata⟩ := runWord_answered w ht
  refine ⟨response st data, hresp, response_zeros st data, ?_, ?_⟩
  · rw [response_status]
    exact st.code_le
  · rw [response_status, response_data]
    intro hrefused
    obtain rfl | hzero := hdata
    · exact absurd hrefused (by decide)
    · exact hzero

end Sys2Proof.Machine

/-! # EDGE and its windows (spec/40_acquisition.md)

EDGE passes the checks of R216, zeroes the watchdog counters and answers (`edgeAnswered`), then drops the edge or takes the
transition of the phase (`phaseStep`). Each transition is said once, its window in µs; an obligation about EDGE is the
transition of its phase, carried by `exec_edge_next` or `exec_edge_fault`. -/

namespace Sys2Proof.Machine

/-! ## The window test in ticks (R104) -/

/-- R11: `ceilDiv a b` is the least `q` with `a ≤ q * b`. -/
theorem ceilDiv_le_iff {b : Nat} (hb : 1 ≤ b) (a q : Nat) : ceilDiv a b ≤ q ↔ a ≤ q * b := by
  have hceil : ceilDiv a b = a ⌈/⌉ b := (Nat.ceilDiv_eq_add_pred_div a b).symm
  rw [hceil, ceilDiv_le_iff_le_mul hb, Nat.mul_comm]

theorem inWin_iff_ticks {tickUs : Nat} (ht : 1 ≤ tickUs) (dt : BitVec 16) (n : Nat) :
    inWin tickUs dt n = true ↔ ceilDiv (n - 256) tickUs ≤ dt.toNat ∧ dt.toNat ≤ (n + 256) / tickUs := by
  rw [inWin_iff, ceilDiv_le_iff ht, Nat.le_div_iff_mul_le ht]

/-- Settles O22. -/
theorem windowTestIsATickRange : Obligations.WindowTestIsATickRange := by
  unfold Obligations.WindowTestIsATickRange
  intro tickUs n dt ht
  exact ⟨inWin_iff tickUs dt n, inWin_iff_ticks ht dt n⟩

/-! ## What EDGE does before the transition of its phase (R100 to R103) -/

/-- R100, R102: the state the acquisition rule runs in, the watchdog counters zeroed and OK answered. -/
def edgeAnswered (s : State) : State := { s with idleTicks := 0, clrTicks := 0, resp := some 0#32 }

theorem respond_resetWatchdog (s : State) : respond .ok 0 (resetWatchdog s) = edgeAnswered s := by
  simp [respond, resetWatchdog, edgeAnswered]

/-- R103. -/
theorem edgeRule_waiting (dt : BitVec 16) {s : State} (hr : s.frameReady = true) :
    edgeRule dt s = .ok (edgeAnswered s) := by
  rw [edgeRule, respond_resetWatchdog]
  exact if_pos hr

theorem edgeRule_clear (dt : BitVec 16) {s : State} (hr : s.frameReady = false) :
    edgeRule dt s = phaseStep dt (edgeAnswered s) := by
  rw [edgeRule, respond_resetWatchdog]
  exact if_neg (by simp [edgeAnswered, hr])

theorem exec_edge_active (dt : BitVec 16) {s : State} (ha : s.Active) :
    exec (.edge dt) s = .next (complete (edgeRule dt) s) := by
  obtain ⟨hlive, hconf⟩ := ha
  exact runEvent_active (edgeRule dt) s hlive hconf

/-- An active block with no frame waiting takes the transition of its phase. -/
theorem exec_edge_next {dt : BitVec 16} {s t : State} (ha : s.Active) (hr : s.frameReady = false)
    (ht : phaseStep dt (edgeAnswered s) = .ok t) : exec (.edge dt) s = .next t := by
  rw [exec_edge_active dt ha, complete_ok ((edgeRule_clear dt hr).trans ht)]

/-- R239: a transition that faults leaves the state before the EDGE, its counters too. -/
theorem exec_edge_fault {dt : BitVec 16} {s : State} {c : FaultCause} (ha : s.Active) (hr : s.frameReady = false)
    (ht : phaseStep dt (edgeAnswered s) = .error c) : exec (.edge dt) s = .next (takeFault c s) := by
  rw [exec_edge_active dt ha, complete_error ((edgeRule_clear dt hr).trans ht)]

theorem takeFault_bufferOverrun (s : State) :
    takeFault .bufferOverrun s = { s with fault := true, faultCode := 5, resp := some 0x30000000#32 } := by
  simp [takeFault, FaultCause.code, FaultCause.condition, Condition.code]

/-- R101, R141: the refusal before INIT. -/
theorem refuse_notConfigured (s : State) : refuse .notConfigured s = { s with resp := some 0x40000000#32 } := by
  simp [refuse, respond]

/-! ## The transitions, phase by phase (R108 to R118) -/

/-- R109, R117: the phases of rest. -/
theorem phaseStep_rest (dt : BitVec 16) {s : State} (hp : s.phase = .idle ∨ s.phase = .cooldown) :
    phaseStep dt s = .ok (startCapture s) := by
  obtain hp | hp := hp <;> simp only [phaseStep, hp]

/-- R110. -/
theorem phaseStep_leadingPulse (dt : BitVec 16) {s : State} (hp : s.phase = .leadingPulse) :
    phaseStep dt s = .ok (if 3124 ≤ dt.toNat * s.tickUs ∧ dt.toNat * s.tickUs ≤ 3636 then { s with phase := .leadingSpace }
      else rejectReset s) := by
  simp only [phaseStep, hp, leadingPulseStep, inWin_leadMark]

/-- R111. -/
theorem phaseStep_leadingSpace (dt : BitVec 16) {s : State} (hp : s.phase = .leadingSpace) :
    phaseStep dt s = .ok (if 1434 ≤ dt.toNat * s.tickUs ∧ dt.toNat * s.tickUs ≤ 1946 then
      { s with phase := .preamble, preCnt := 0 } else rejectReset s) := by
  simp only [phaseStep, hp, leadingSpaceStep, inWin_leadGap]

/-- R116. -/
theorem phaseStep_finalPulse (dt : BitVec 16) {s : State} (hp : s.phase = .finalPulse) :
    phaseStep dt s = .ok (if 164 ≤ dt.toNat * s.tickUs ∧ dt.toNat * s.tickUs ≤ 676 then
      { s with phase := .cooldown, frameReady := true, preCnt := 0 } else rejectReset s) := by
  simp only [phaseStep, hp, finalPulseStep, inWin_final]

/-- R113 to R115: the three field phases, each with its limit and the phase it leaves to. -/
theorem phaseStep_field (dt : BitVec 16) {s : State} {limit : Nat} {next : Phase}
    (hp : (s.phase, limit, next) ∈ [(Phase.systemCodeField, 8, Phase.preamble),
      (Phase.addressField, 20, Phase.commandField), (Phase.commandField, 36, Phase.preamble)]) :
    phaseStep dt s = fieldStep dt limit next s := by
  simp only [List.mem_cons, List.not_mem_nil, or_false, Prod.mk.injEq] at hp
  obtain ⟨hp, rfl, rfl⟩ | ⟨hp, rfl, rfl⟩ | ⟨hp, rfl, rfl⟩ := hp <;> simp only [phaseStep, hp]

/-- R113: the half-intervals a field phase refuses. -/
theorem fieldStep_reject {dt : BitVec 16} {s : State} (limit : Nat) (next : Phase)
    (hc : classify s.tickUs dt (fieldMark s) = .outOfTolerance) :
    fieldStep dt limit next s = .ok (rejectReset s) := by
  rw [fieldStep, if_pos hc]

/-- R118: an accepted half-interval at a full buffer. -/
theorem fieldStep_full {dt : BitVec 16} {s : State} (limit : Nat) (next : Phase)
    (hc : classify s.tickUs dt (fieldMark s) ≠ .outOfTolerance) (hfull : 36 ≤ s.bbLen.toNat) :
    fieldStep dt limit next s = .error .bufferOverrun := by
  rw [fieldStep, if_neg hc, append_full _ s hfull]
  rfl

/-- R113, R118: an accepted half-interval with room in the buffer. -/
theorem fieldStep_room {dt : BitVec 16} {s : State} (limit : Nat) (next : Phase)
    (hc : classify s.tickUs dt (fieldMark s) ≠ .outOfTolerance) (hroom : s.bbLen.toNat < 36) :
    fieldStep dt limit next s = .ok
      { s with
        bb := bbWrite s.bb s.bbLen.toNat (decide ¬(164 ≤ dt.toNat * s.tickUs ∧ dt.toNat * s.tickUs ≤ 676))
        bbLen := s.bbLen + 1, phase := if s.bbLen.toNat + 1 = limit then next else s.phase } := by
  have hlen : (s.bbLen + 1).toNat = s.bbLen.toNat + 1 := toNat_succ s.bbLen (by omega)
  rw [fieldStep, if_neg hc, append_room _ s hroom, entry_classify _ _ _ hc, Except.map, leaveFieldAt_eq]
  simp only [hlen]

/-! ## The obligations about EDGE -/

/-- Settles O30: the half-interval is refused, or it meets a full buffer, or it is appended. -/
theorem fieldPhasesAppendOneEntry : Obligations.FieldPhasesAppendOneEntry := by
  unfold Obligations.FieldPhasesAppendOneEntry
  intro dt s limit next ha hr hp
  have hstep : phaseStep dt (edgeAnswered s) = fieldStep dt limit next (edgeAnswered s) := phaseStep_field dt hp
  have hclass := classify_outOfTolerance_iff s.tickUs dt s.bbLen.toNat
  by_cases haccept : (164 ≤ dt.toNat * s.tickUs ∧ dt.toNat * s.tickUs ≤ 676) ∨
      (s.bbLen.toNat % 2 = 1 ∧ 1014 ≤ dt.toNat * s.tickUs ∧ dt.toNat * s.tickUs ≤ 1526)
  · have hc : classify s.tickUs dt (fieldMark s) ≠ .outOfTolerance := fun hc => hclass.mp hc haccept
    rw [if_pos haccept]
    by_cases hfull : 36 ≤ s.bbLen.toNat
    · rw [if_pos hfull, ← takeFault_bufferOverrun]
      exact exec_edge_fault ha hr (hstep.trans (fieldStep_full limit next hc hfull))
    · rw [if_neg hfull]
      exact exec_edge_next ha hr (hstep.trans (fieldStep_room limit next hc (Nat.lt_of_not_le hfull)))
  · rw [if_neg haccept]
    exact exec_edge_next ha hr (hstep.trans (fieldStep_reject limit next (hclass.mpr haccept)))

/-- Settles O14: the checks of R216 refuse both commands before their rules run. -/
theorem eventsBeforeInitAreRefused : Obligations.EventsBeforeInitAreRefused := by
  unfold Obligations.EventsBeforeInitAreRefused
  intro dt s hlive hconf
  rw [← refuse_notConfigured]
  exact ⟨runEvent_unconfigured _ s hlive hconf, runEvent_unconfigured _ s hlive hconf⟩

/-- Settles O25. -/
theorem edgeWhileFrameWaitsIsDropped : Obligations.EdgeWhileFrameWaitsIsDropped := by
  unfold Obligations.EdgeWhileFrameWaitsIsDropped
  intro dt s ha hr
  rw [exec_edge_active dt ha, complete_ok (edgeRule_waiting dt hr), edgeAnswered]

/-- Settles O26. -/
theorem edgeAtRestStartsACapture : Obligations.EdgeAtRestStartsACapture := by
  unfold Obligations.EdgeAtRestStartsACapture
  intro dt s ha hr hp
  exact exec_edge_next ha hr (phaseStep_rest dt hp)

/-- Settles O27. -/
theorem leadingPulseTakesOnlyTheLeadingMark : Obligations.LeadingPulseTakesOnlyTheLeadingMark := by
  unfold Obligations.LeadingPulseTakesOnlyTheLeadingMark
  intro dt s ha hr hp
  exact exec_edge_next ha hr (phaseStep_leadingPulse dt hp)

/-- Settles O28. -/
theorem leadingSpaceTakesOnlyTheLeadingGap : Obligations.LeadingSpaceTakesOnlyTheLeadingGap := by
  unfold Obligations.LeadingSpaceTakesOnlyTheLeadingGap
  intro dt s ha hr hp
  exact exec_edge_next ha hr (phaseStep_leadingSpace dt hp)

/-- Settles O31. -/
theorem finalPulseRaisesFrameReady : Obligations.FinalPulseRaisesFrameReady := by
  unfold Obligations.FinalPulseRaisesFrameReady
  intro dt s ha hr hp
  exact exec_edge_next ha hr (phaseStep_finalPulse dt hp)

end Sys2Proof.Machine

/-! # TICK and the two counters (spec/41_watchdog.md)

A TICK runs two halves, the timeout and the clear request (R145). Each is said once as the registers it writes, with the
timeout's three cases (below the limit, reaching it, past it) joined into one; the two share no register. -/

namespace Sys2Proof.Machine

/-! ## The timeout (R142, R143) -/

theorem capturing_iff (p : Phase) : p.capturing = true ↔ p ≠ .idle ∧ p ≠ .cooldown := by
  cases p <;> decide

theorem timeout_eq (s : State) :
    timeout s =
      { s with
        phase := .idle
        bbLen := if s.phase ≠ .idle ∧ s.phase ≠ .cooldown then 0 else s.bbLen
        preCnt := if s.phase ≠ .idle ∧ s.phase ≠ .cooldown then 0 else s.preCnt
        avail := false } := by
  simp only [← capturing_iff]
  cases hp : s.phase.capturing with
  | true => exact timeout_capturing s hp
  | false => exact timeout_resting s hp

theorem countIdle_below {s : State} (h : s.idleTicks.toNat < 2) :
    countIdle s = { s with idleTicks := s.idleTicks + 1 } := by
  rw [countIdle, if_pos (show _ < 3 by omega), if_neg (show _ + 1 ≠ 3 by omega)]

theorem countIdle_reaching {s : State} (h : s.idleTicks.toNat = 2) :
    countIdle s = timeout { s with idleTicks := s.idleTicks + 1 } := by
  rw [countIdle, if_pos (show _ < 3 by omega), if_pos (show _ + 1 = 3 by omega)]

theorem countIdle_past {s : State} (h : 2 < s.idleTicks.toNat) : countIdle s = s := if_neg (show ¬_ < 3 by omega)

theorem countIdle_eq (s : State) :
    countIdle s =
      { s with
        idleTicks := if s.idleTicks.toNat < 3 then s.idleTicks + 1 else s.idleTicks
        phase := if s.idleTicks.toNat = 2 then .idle else s.phase
        bbLen := if s.idleTicks.toNat = 2 ∧ s.phase ≠ .idle ∧ s.phase ≠ .cooldown then 0 else s.bbLen
        preCnt := if s.idleTicks.toNat = 2 ∧ s.phase ≠ .idle ∧ s.phase ≠ .cooldown then 0 else s.preCnt
        avail := if s.idleTicks.toNat = 2 then false else s.avail } := by
  obtain h | h | h := lt_trichotomy s.idleTicks.toNat 2
  · simp [countIdle_below h, h.ne, h.trans (by decide : 2 < 3)]
  · simp [countIdle_reaching h, timeout_eq, h]
  · simp [countIdle_past h, h.ne', Nat.not_lt.mpr h]

/-! ## The clear request (R144) -/

theorem countClear_eq (s : State) :
    countClear s =
      { s with
        clrTicks := if s.cfgClrTicks.toNat ≤ s.clrTicks.toNat + 1 then 0 else s.clrTicks + 1
        clearReq := if s.cfgClrTicks.toNat ≤ s.clrTicks.toNat + 1 then true else s.clearReq } := by
  unfold countClear
  split_ifs <;> rfl

/-! ## The obligations about TICK -/

theorem respond_ok_zero (s : State) : respond .ok 0 s = { s with resp := some 0#32 } := by
  rw [respond, BitVec.ofNat_eq_ofNat, response_ok_zero]

theorem exec_tick_active {s : State} (ha : s.Active) : exec .tick s = .next (tickRule s) := by
  obtain ⟨hlive, hconf⟩ := ha
  exact runEvent_active (fun s => .ok (tickRule s)) s hlive hconf

/-- Settles O36: OK is answered, then each half writes its registers. -/
theorem tickCountsAndTimesOut : Obligations.TickCountsAndTimesOut := by
  unfold Obligations.TickCountsAndTimesOut
  intro s ha
  rw [exec_tick_active ha, tickRule, respond_ok_zero, countIdle_eq, countClear_eq]

/-- Settles O37: neither half reads or writes a register the other writes. -/
theorem timeoutAndClearPartsCommute : Obligations.TimeoutAndClearPartsCommute := by
  unfold Obligations.TimeoutAndClearPartsCommute
  intro s
  calc countClear (countIdle s)
      = { countIdle s with clrTicks := (countClear s).clrTicks, clearReq := (countClear s).clearReq } := by
        simp only [countClear_eq, countIdle_eq]
    _ = countIdle (countClear s) := by simp only [countClear_eq, countIdle_eq]

end Sys2Proof.Machine

/-! # POLL with and without a waiting frame (spec/42_poll_decode.md)

POLL runs the clear service (R161), then takes the waiting frame (R163 to R165, R168) or reports the level (R166, R167).
Each piece is said once as the registers it writes. -/

namespace Sys2Proof.Machine

/-! ## The decoder (R163): a field is its space entries, bit 0 last in the concatenation -/

theorem toNat_append_ofBool {n : Nat} (x : BitVec n) (b : Bool) :
    (x ++ BitVec.ofBool b).toNat = 2 * x.toNat + b.toNat := by
  have hadd := Nat.two_pow_add_eq_or_of_lt (i := 1) (b := b.toNat) b.toNat_lt x.toNat
  rw [BitVec.toNat_append, BitVec.toNat_ofBool, Nat.shiftLeft_eq, Nat.mul_comm, ← hadd, pow_one]

/-- A field's value fixes the decoded byte. -/
theorem ofNat_fieldValue_eq {bb : Vector Bool 36} {base n : Nat} {x : BitVec 8} (h : fieldValue bb base n = x.toNat) :
    BitVec.ofNat 8 (fieldValue bb base n) = x := by
  rw [h, BitVec.ofNat_toNat, BitVec.setWidth_eq]

theorem decodedSys_eq (bb : Vector Bool 36) :
    decodedSys bb = (BitVec.ofBool (bbRead bb 7) ++ BitVec.ofBool (bbRead bb 5) ++ BitVec.ofBool (bbRead bb 3)
      ++ BitVec.ofBool (bbRead bb 1)).setWidth 8 := by
  refine ofNat_fieldValue_eq (base := 0) (n := 4) ?_
  rw [BitVec.toNat_setWidth_of_le (by decide)]
  simp only [toNat_append_ofBool, BitVec.toNat_ofBool, fieldValue, Nat.reduceMul, Nat.reduceAdd]
  omega

theorem decodedAddr_eq (bb : Vector Bool 36) :
    decodedAddr bb = (BitVec.ofBool (bbRead bb 19) ++ BitVec.ofBool (bbRead bb 17) ++ BitVec.ofBool (bbRead bb 15)
      ++ BitVec.ofBool (bbRead bb 13) ++ BitVec.ofBool (bbRead bb 11) ++ BitVec.ofBool (bbRead bb 9)).setWidth 8 := by
  refine ofNat_fieldValue_eq (base := 8) (n := 6) ?_
  rw [BitVec.toNat_setWidth_of_le (by decide)]
  simp only [toNat_append_ofBool, BitVec.toNat_ofBool, fieldValue, Nat.reduceMul, Nat.reduceAdd]
  omega

theorem decodedCmd_eq (bb : Vector Bool 36) :
    decodedCmd bb = BitVec.ofBool (bbRead bb 35) ++ BitVec.ofBool (bbRead bb 33) ++ BitVec.ofBool (bbRead bb 31)
      ++ BitVec.ofBool (bbRead bb 29) ++ BitVec.ofBool (bbRead bb 27) ++ BitVec.ofBool (bbRead bb 25)
      ++ BitVec.ofBool (bbRead bb 23) ++ BitVec.ofBool (bbRead bb 21) := by
  refine ofNat_fieldValue_eq (base := 20) (n := 8) ?_
  simp only [toNat_append_ofBool, BitVec.toNat_ofBool, fieldValue, Nat.reduceMul, Nat.reduceAdd]
  omega

/-! ## The pieces of POLL -/

theorem respond_ok_boolData (b : Bool) (s : State) :
    respond .ok (boolData b) s = { s with resp := some (if b then 1#32 else 0#32) } := by
  cases b <;> simp [respond]

/-- R164: the three conditions of the suppression, and the level of the previous call. -/
theorem repeatSuppressed_iff (s : State) :
    repeatSuppressed s = true ↔
      decodedSys s.bb = s.resSys ∧ decodedCmd s.bb = s.resCmd ∧
        ({ valid := true, key := decodedSys s.bb ++ decodedCmd s.bb } : Slot) ∈ s.reg ∧ s.avail = true := by
  simp only [repeatSuppressed, Bool.and_eq_true, decide_eq_true_eq, containsPair_iff, and_assoc]

/-- R164: a suppressed frame finds `avail` already 1, so only its own registers and the response are written. -/
theorem takeFrame_suppressed {s : State} (h : repeatSuppressed s = true) :
    takeFrame s = { s with frameReady := false, bbLen := 0, resp := some 0#32 } := by
  obtain ⟨-, -, -, havail⟩ := (repeatSuppressed_iff s).mp h
  have hsame : consumeFrame s = { s with frameReady := false, bbLen := 0 } := by rw [consumeFrame, ← havail]
  rw [takeFrame, if_pos h, hsame, respond_ok_boolData, if_neg Bool.false_ne_true]

/-- R165. -/
theorem takeFrame_replaced {s : State} (h : ¬ repeatSuppressed s = true) :
    takeFrame s =
      { s with
        avail := true, frameReady := false, bbLen := 0, resSys := decodedSys s.bb, resAddr := decodedAddr s.bb
        resCmd := decodedCmd s.bb, resp := some 1#32 } := by
  rw [takeFrame, if_neg h, respond_ok_boolData]
  rfl

/-- R161, where no frame waits: a pending request is served at rest. -/
theorem clearService_eq {s : State} (hr : s.frameReady = false) :
    clearService s =
      { s with
        bb := if s.clearReq = true ∧ (s.phase = .idle ∨ s.phase = .cooldown) then bbZero else s.bb
        bbLen := if s.clearReq = true ∧ (s.phase = .idle ∨ s.phase = .cooldown) then 0 else s.bbLen
        clearReq := if s.phase = .idle ∨ s.phase = .cooldown then false else s.clearReq } := by
  have hrest : s.phase.capturing = false ↔ s.phase = .idle ∨ s.phase = .cooldown := by
    rw [← Bool.not_eq_true, capturing_iff, not_and_or, not_not, not_not]
  have hdue : clearServiceDue s = true ↔ s.clearReq = true ∧ (s.phase = .idle ∨ s.phase = .cooldown) := by
    rw [clearServiceDue_iff, hrest, and_iff_left hr]
  unfold clearService
  by_cases h : s.clearReq = true ∧ (s.phase = .idle ∨ s.phase = .cooldown)
  · have ⟨_, hphase⟩ := h
    rw [if_pos (hdue.mpr h), if_pos h, if_pos h, if_pos hphase]
  · have hkeep : (if s.phase = .idle ∨ s.phase = .cooldown then false else s.clearReq) = s.clearReq := by
      split_ifs with hphase
      · exact (Bool.eq_false_iff.mpr fun hreq => h ⟨hreq, hphase⟩).symm
      · rfl
    rw [if_neg (mt hdue.mp h), if_neg h, if_neg h, hkeep]

/-- R166, R167: the level, suppressed where the stored pair is in the registry. -/
theorem reportLevel_eq (s : State) :
    reportLevel s =
      { s with
        resp := some (if s.avail = true ∧ ({ valid := true, key := s.resSys ++ s.resCmd } : Slot) ∉ s.reg then 1#32
          else 0#32) } := by
  simp only [reportLevel, Bool.and_eq_true, containsPair_iff, respond_ok_boolData]
  by_cases hmem : ({ valid := true, key := s.resSys ++ s.resCmd } : Slot) ∈ s.reg
  · cases havail : s.avail <;> simp [hmem]
  · simp [hmem]

theorem pollRule_waiting {s : State} (hr : s.frameReady = true) (hlen : s.bbLen = 36) :
    pollRule s = .ok (takeFrame s) := by
  rw [pollRule, clearService_of_frameReady s hr, pollFrame, if_pos hr, if_pos (by rw [hlen]; rfl)]

theorem pollRule_empty {s : State} (hr : s.frameReady = false) :
    pollRule s = .ok (reportLevel (clearService s)) := by
  have hr' : (clearService s).frameReady = false := by rw [clearService_eq hr, hr]
  rw [pollRule, pollFrame, hr', if_neg Bool.false_ne_true]

theorem exec_poll_next {s t : State} (hlive : s.Live) (ht : pollRule s = .ok t) : exec .poll s = .next t := by
  rw [show exec .poll s = runCommand pollRule s from rfl, runCommand_live pollRule s hlive, complete_ok ht]

/-! ## The obligations about POLL -/

/-- Settles O42: the waiting frame is suppressed or replaces the Decoded Frame. -/
theorem pollConsumesTheWaitingFrame : Obligations.PollConsumesTheWaitingFrame := by
  unfold Obligations.PollConsumesTheWaitingFrame
  intro s sys addr cmd hlive hr hlen hsys haddr hcmd
  rw [exec_poll_next hlive (pollRule_waiting hr hlen), hsys, haddr, hcmd, ← decodedSys_eq, ← decodedAddr_eq,
    ← decodedCmd_eq]
  simp only [← repeatSuppressed_iff]
  by_cases hsup : repeatSuppressed s = true
  · rw [if_pos hsup, takeFrame_suppressed hsup]
  · rw [if_neg hsup, takeFrame_replaced hsup]

/-- Settles O44: the clear service writes no register the level depends on. -/
theorem pollWithoutFrameReportsTheLevel : Obligations.PollWithoutFrameReportsTheLevel := by
  unfold Obligations.PollWithoutFrameReportsTheLevel
  intro s hlive hr
  rw [exec_poll_next hlive (pollRule_empty hr), reportLevel_eq, clearService_eq hr]

end Sys2Proof.Machine

/-! # What writes the registry (spec/43_registry.md)

A command leaves the block refusing it, with its rule's own result, or in the fault entry. The first and the last write no
slot, so a command whose rule writes none (`KeepsRegistry`) writes none. -/

namespace Sys2Proof.Machine

/-! ## How a command can end (R216, R238) -/

/-- The state after a command: refused, its rule run to the end, or its fault taken. -/
def EndsAs (rule : State → Except FaultCause State) (s t : State) : Prop :=
  (∃ st, t = refuse st s) ∨ rule s = .ok t ∨ ∃ c, t = takeFault c s

theorem endsAs_complete (rule : State → Except FaultCause State) (s : State) : EndsAs rule s (complete rule s) := by
  cases hr : rule s with
  | ok t => exact .inr (.inl (by rw [complete_ok hr, hr]))
  | error c => exact .inr (.inr ⟨c, complete_error hr⟩)

theorem endsAs_of_runCommand {rule : State → Except FaultCause State} {s t : State} (ht : runCommand rule s = .next t) :
    EndsAs rule s t := by
  cases ht
  split_ifs
  · exact .inl ⟨.faulted, rfl⟩
  · exact endsAs_complete rule s

theorem endsAs_of_runEvent {rule : State → Except FaultCause State} {s t : State} (ht : runEvent rule s = .next t) :
    EndsAs rule s t := by
  cases ht
  split_ifs
  · exact .inl ⟨.faulted, rfl⟩
  · exact endsAs_complete rule s
  · exact .inl ⟨.notConfigured, rfl⟩

/-- R214: a reserved word is refused, faulted or not. -/
theorem refuseIllegal_next {s t : State} (ht : refuseIllegal s = .next t) : ∃ st, t = refuse st s := by
  cases ht
  split_ifs
  · exact ⟨.faulted, rfl⟩
  · exact ⟨.illegal, rfl⟩

/-! ## Rules that write no slot -/

/-- A rule that runs to its end leaves every slot as it was. -/
def KeepsRegistry (rule : State → Except FaultCause State) : Prop := ∀ s t : State, rule s = .ok t → t.reg = s.reg

theorem keepsRegistry_pure {f : State → State} (hf : ∀ s, (f s).reg = s.reg) : KeepsRegistry fun s => .ok (f s) := by
  intro s t ht
  cases ht
  exact hf s

theorem KeepsRegistry.reg_eq {rule : State → Except FaultCause State} (h : KeepsRegistry rule) {s t : State}
    (ht : EndsAs rule s t) : t.reg = s.reg := by
  obtain ⟨st, rfl⟩ | ht | ⟨c, rfl⟩ := ht
  · exact refuse_reg st s
  · exact h s t ht
  · exact takeFault_reg c s

/-! ### INIT (R211) -/

theorem initRule_reg (ivl : BitVec 24) (s : State) : (initRule ivl s).reg = s.reg := respond_reg _ _ _

/-! ### EDGE: a transition writes the capture's own registers -/

/-- `t` differs from `s` at most in the registers of the capture. -/
def CaptureOnly (s t : State) : Prop :=
  t = { s with phase := t.phase, preCnt := t.preCnt, bbLen := t.bbLen, bb := t.bb, frameReady := t.frameReady }

theorem CaptureOnly.reg_eq {s t : State} (h : CaptureOnly s t) : t.reg = s.reg := by
  rw [CaptureOnly] at h
  rw [h]

theorem captureOnly_restartAt (p : Phase) (s : State) : CaptureOnly s (restartAt p s) := rfl

theorem preambleStep_captureOnly (dt : BitVec 16) (s : State) : CaptureOnly s (preambleStep dt s) := by
  unfold preambleStep
  split_ifs
  · exact captureOnly_restartAt .idle s
  · rfl

theorem fieldStep_captureOnly {dt : BitVec 16} {limit : Nat} {next : Phase} {s t : State}
    (ht : fieldStep dt limit next s = .ok t) : CaptureOnly s t := by
  by_cases hc : classify s.tickUs dt (fieldMark s) = .outOfTolerance
  · rw [fieldStep_reject limit next hc] at ht
    cases ht
    exact captureOnly_restartAt .idle s
  · obtain hroom | hfull := Nat.lt_or_ge s.bbLen.toNat 36
    · rw [fieldStep_room limit next hc hroom] at ht
      cases ht
      rfl
    · rw [fieldStep_full limit next hc hfull] at ht
      cases ht

/-- R109 to R117: the transition of every phase. -/
theorem phaseStep_captureOnly {dt : BitVec 16} {s t : State} (ht : phaseStep dt s = .ok t) : CaptureOnly s t := by
  cases hp : s.phase with
  | idle =>
    rw [phaseStep_rest dt (.inl hp)] at ht
    cases ht
    exact captureOnly_restartAt .leadingPulse s
  | leadingPulse =>
    rw [phaseStep_leadingPulse dt hp] at ht
    cases ht
    split_ifs
    · rfl
    · exact captureOnly_restartAt .idle s
  | leadingSpace =>
    rw [phaseStep_leadingSpace dt hp] at ht
    cases ht
    split_ifs
    · rfl
    · exact captureOnly_restartAt .idle s
  | preamble =>
    simp only [phaseStep, hp] at ht
    cases ht
    exact preambleStep_captureOnly dt s
  | systemCodeField =>
    rw [phaseStep_field (limit := 8) (next := .preamble) dt (by simp [hp])] at ht
    exact fieldStep_captureOnly ht
  | addressField =>
    rw [phaseStep_field (limit := 20) (next := .commandField) dt (by simp [hp])] at ht
    exact fieldStep_captureOnly ht
  | commandField =>
    rw [phaseStep_field (limit := 36) (next := .preamble) dt (by simp [hp])] at ht
    exact fieldStep_captureOnly ht
  | finalPulse =>
    rw [phaseStep_finalPulse dt hp] at ht
    cases ht
    split_ifs
    · rfl
    · exact captureOnly_restartAt .idle s
  | cooldown =>
    rw [phaseStep_rest dt (.inr hp)] at ht
    cases ht
    exact captureOnly_restartAt .leadingPulse s

theorem edgeRule_keepsRegistry (dt : BitVec 16) : KeepsRegistry (edgeRule dt) := by
  intro s t ht
  cases hr : s.frameReady with
  | true =>
    rw [edgeRule_waiting dt hr] at ht
    cases ht
    rfl
  | false =>
    rw [edgeRule_clear dt hr] at ht
    exact (phaseStep_captureOnly ht).reg_eq

/-! ### TICK (R140) -/

theorem tickRule_reg (s : State) : (tickRule s).reg = s.reg := by
  rw [tickRule, countClear_eq, countIdle_eq, respond_reg]

/-! ### POLL (R160): the registry is read, not written -/

theorem clearService_reg (s : State) : (clearService s).reg = s.reg := by
  unfold clearService
  split_ifs <;> rfl

theorem takeFrame_reg (s : State) : (takeFrame s).reg = s.reg := by
  unfold takeFrame
  split_ifs <;> rfl

theorem pollFrame_keepsRegistry : KeepsRegistry pollFrame := by
  intro s t ht
  unfold pollFrame at ht
  split_ifs at ht
  · cases ht
    exact takeFrame_reg s
  · cases ht
    rw [reportLevel_eq]

theorem pollRule_keepsRegistry : KeepsRegistry pollRule := fun s t ht =>
  (pollFrame_keepsRegistry (clearService s) t ht).trans (clearService_reg s)

/-! ## Every instruction but DISABLE and ENABLE, and power-on reset (R196) -/

theorem exec_reg {i : Instr} {s t : State} (ht : exec i s = .next t)
    (hi : ∀ sys cmd, i ≠ .disable sys cmd ∧ i ≠ .enable sys cmd) : t.reg = s.reg := by
  cases i with
  | nop => exact (keepsRegistry_pure fun _ => respond_reg _ _ _).reg_eq (endsAs_of_runCommand ht)
  | init ivl => exact (keepsRegistry_pure (initRule_reg ivl)).reg_eq (endsAs_of_runCommand ht)
  | edge dt => exact (edgeRule_keepsRegistry dt).reg_eq (endsAs_of_runEvent ht)
  | tick => exact (keepsRegistry_pure tickRule_reg).reg_eq (endsAs_of_runEvent ht)
  | poll => exact pollRule_keepsRegistry.reg_eq (endsAs_of_runCommand ht)
  | disable sys cmd => exact absurd rfl (hi sys cmd).1
  | enable sys cmd => exact absurd rfl (hi sys cmd).2
  | contains sys cmd => exact (keepsRegistry_pure fun _ => respond_reg _ _ _).reg_eq (endsAs_of_runCommand ht)
  | readFrame => exact (keepsRegistry_pure fun _ => respond_reg _ _ _).reg_eq (endsAs_of_runCommand ht)
  | readStatus =>
    cases ht
    exact respond_reg _ _ _
  | reservedAB op rest | reservedCF op rest =>
    obtain ⟨st, rfl⟩ := refuseIllegal_next ht
    exact refuse_reg st s

/-- R260: the slots of any build are all free. -/
theorem heldKeys_powerOn (s : State) : heldKeys (powerOn s).reg = [] := heldKeys_replicate_free _ 0

/-- Settles O51: no other command's rule writes a slot, and neither do the refusals and the fault entry. -/
theorem onlyDisableAndEnableWriteTheRegistry : Obligations.OnlyDisableAndEnableWriteTheRegistry := by
  unfold Obligations.OnlyDisableAndEnableWriteTheRegistry
  refine ⟨fun i s t ht hi => exec_reg ht hi, ?_⟩
  intro s t rest hin ht
  rw [step_powerOnReset s rest hin] at ht
  cases ht
  exact heldKeys_powerOn _

end Sys2Proof.Machine

/-! # Dispatch and the clear interval (spec/44_control.md)

A presented word is refused whole or run as its command. Said once here: which words the decoder refuses (R214), what a
faulted block does with a word (R215), and the interval of INIT in watchdog ticks by its least property (R212). -/

namespace Sys2Proof.Machine

/-! ## Words that spell no command (R214) -/

/-- R75: a reserved word is refused as a word outside the table is. -/
theorem exec_of_not_command {i : Instr} (hi : i.isCommand = false) (s : State) : exec i s = refuseIllegal s := by
  cases i with
  | reservedAB op rest | reservedCF op rest => rfl
  | _ => simp [Instr.isCommand] at hi

theorem runWord_of_not_command {w : Word} (h : ¬∃ i, decode w = .command i ∧ i.isCommand = true) (s : State) :
    runWord w s = refuseIllegal s := by
  unfold runWord
  cases hw : decode w with
  | illegal why => rfl
  | command i => exact exec_of_not_command (by simpa [hw] using h) s

theorem refuse_illegal (s : State) : refuse .illegal s = { s with resp := some 0x20000000#32 } := by
  simp [refuse, respond]

/-- Settles O8: a word outside the rows spells no command, in either reading of R74 (`CommandFields`). -/
theorem illegalWordChangesNothing : Obligations.IllegalWordChangesNothing := by
  unfold Obligations.IllegalWordChangesNothing
  intro s w rest hlive hin hrows
  have hnone : ¬∃ i, decode w = .command i ∧ i.isCommand = true := by
    rw [exists_decode_command_iff, ← exists_commandRow_iff]
    rintro ⟨r, hr, hmatch⟩
    exact hrows r hr hmatch
  rw [step_word s w rest hin, runWord_of_not_command hnone, refuseIllegal_live { s with inbox := rest } hlive,
    refuse_illegal]

/-! ## The faulted block (R215) -/

/-- R72: READ_STATUS has one word. -/
theorem decode_eq_readStatus_iff (w : Word) : decode w = .command .readStatus ↔ w = 0x90000000#32 := by
  constructor
  · intro h
    unfold decode at h
    split at h
    case h_10 hop =>
      obtain ⟨hrsv, hopd, -⟩ := (decodePlain_command_iff _ _ _).mp h
      apply BitVec.eq_of_toNat_eq
      rw [word_fields, hop, hrsv, hopd]
      rfl
    all_goals simp [decodePlain_command_iff, decodeNarrow_command_iff, decodeWide_command_iff] at h
  · rintro rfl
    decide

theorem refuse_faulted (s : State) : refuse .faulted s = { s with resp := some 0x30000000#32 } := by
  simp [refuse, respond]

/-- R216: the first check of every command but READ_STATUS. -/
theorem exec_faulted {i : Instr} {s : State} (hf : s.fault = true) (hi : i ≠ .readStatus) :
    exec i s = .next (refuse .faulted s) := by
  cases i with
  | nop | init | poll | disable | enable | contains | readFrame => exact runCommand_faulted _ s hf
  | edge | tick => exact runEvent_faulted _ s hf
  | readStatus => exact absurd rfl hi
  | reservedAB | reservedCF => exact refuseIllegal_faulted s hf

theorem runWord_faulted {w : Word} {s : State} (hf : s.fault = true) (hw : w ≠ 0x90000000#32) :
    runWord w s = .next (refuse .faulted s) := by
  unfold runWord
  cases hd : decode w with
  | illegal why => exact refuseIllegal_faulted s hf
  | command i =>
    refine exec_faulted hf ?_
    rintro rfl
    exact hw ((decode_eq_readStatus_iff w).mp hd)

theorem runWord_readStatus (s : State) : runWord 0x90000000#32 s = .next (respond .ok (statusData s) s) := by
  rw [runWord, (decode_eq_readStatus_iff _).mpr rfl]
  rfl

/-- R240: no word ends the fault. -/
theorem runWord_keeps_fault {w : Word} {s t : State} (hf : s.fault = true) (ht : runWord w s = .next t) :
    t.fault = true := by
  by_cases hw : w = 0x90000000#32
  · subst hw
    rw [runWord_readStatus] at ht
    cases ht
    exact hf
  · rw [runWord_faulted hf hw] at ht
    cases ht
    exact hf

/-- R240: a step that ends the fault took a power-on reset. -/
theorem inbox_powerOnReset_of_fault_cleared {s t : State} (hf : s.fault = true) (ht : step s = .next t)
    (hclear : t.fault = false) : ∃ rest, s.inbox = .powerOnReset :: rest := by
  cases hin : s.inbox with
  | nil =>
    rw [step_nil s hin] at ht
    cases ht
    exact absurd hf (by simpa using hclear)
  | cons x rest =>
    cases x with
    | powerOnReset => exact ⟨rest, rfl⟩
    | command w =>
      rw [step_word s w rest hin] at ht
      exact absurd (runWord_keeps_fault (s := { s with inbox := rest }) hf ht) (by simpa using hclear)

/-- Settles O13: every command but READ_STATUS stops at the check of R216, and READ_STATUS only answers. -/
theorem faultedBlockRefusesAllButReadStatus : Obligations.FaultedBlockRefusesAllButReadStatus := by
  unfold Obligations.FaultedBlockRefusesAllButReadStatus
  intro s hf
  refine ⟨fun w rest hin => ⟨?_, ?_⟩, fun t => inbox_powerOnReset_of_fault_cleared hf⟩
  · intro hw
    rw [step_word s w rest hin, runWord_faulted (s := { s with inbox := rest }) hf hw, refuse_faulted]
  · rintro rfl
    exact ⟨_, (step_word s _ rest hin).trans (runWord_readStatus _)⟩

/-! ## The clear interval in watchdog ticks (R212) -/

/-- R212: `ClrTicks` is the least `q` that lasts the floored interval; the floor keeps it off 0. -/
theorem clrTicksFor_le_iff {tovfUs : Nat} (ht : 1 ≤ tovfUs) (ivl q : Nat) :
    clrTicksFor tovfUs ivl ≤ q ↔ max ivl 83000 ≤ q * tovfUs := by
  have hpos : max ivl 83000 ≤ q * tovfUs → 1 ≤ q := by
    intro h
    have hfloor : 0 < q * tovfUs := lt_of_lt_of_le (by simp) h
    exact Nat.pos_of_mul_pos_right hfloor
  rw [clrTicksFor, max_le_iff, ceilDiv_le_iff ht]
  exact ⟨fun h => h.2, fun h => ⟨hpos h, h⟩⟩

/-- R212: a request up to the floor selects the default. -/
theorem clrTicksFor_of_le_floor (tovfUs : Nat) {ivl : Nat} (h : ivl ≤ 83000) :
    clrTicksFor tovfUs ivl = clrTicksFor tovfUs 0 := by
  have hfloor : max ivl Config.clrFloorUs = max 0 Config.clrFloorUs := by
    rw [max_eq_right h, Nat.zero_max]
  rw [clrTicksFor, hfloor, clrTicksFor]

/-- Settles O20: the bounds of the register, and the least property read at `ClrTicks` itself and at any `r`. -/
theorem clearIntervalRoundsUpToTicks : Obligations.ClearIntervalRoundsUpToTicks := by
  unfold Obligations.ClearIntervalRoundsUpToTicks
  intro tovfUs ivl ht hivl
  obtain ⟨hone, hfits⟩ := clrTicksFor_bounds tovfUs ivl hivl
  exact ⟨(clrTicksFor_le_iff ht ivl _).mp le_rfl, fun r => (clrTicksFor_le_iff ht ivl r).mpr, hone,
    Nat.le_sub_one_of_lt hfits, clrTicksFor_of_le_floor tovfUs⟩

end Sys2Proof.Machine

/-! # Faults and the recovery of a full registry (spec/60_exceptions.md)

Each command has at most one fault to raise (`faultOf`), and its rule writes no fault flag itself, so a command that ends
faulted ended in the fault entry. A full registry is recovered by its effect on the set of held keys (R190): ENABLE takes a
key out and leaves a free slot, DISABLE puts a key in. -/

namespace Sys2Proof.Machine

/-! ## Rules and their faults (R238) -/

/-- A rule that runs to its end leaves the fault flag, and the only fault it may raise instead is `cause`. -/
structure FaultsOnlyAs (cause : Option FaultCause) (rule : State → Except FaultCause State) : Prop where
  keeps : ∀ {s t : State}, rule s = .ok t → t.fault = s.fault
  raises : ∀ {s : State} {c : FaultCause}, rule s = .error c → cause = some c

theorem faultsOnlyAs_pure {f : State → State} (hf : ∀ s, (f s).fault = s.fault) :
    FaultsOnlyAs none fun s => .ok (f s) where
  keeps ht := by
    cases ht
    exact hf _
  raises ht := by cases ht

section
variable {cause : Option FaultCause} {rule : State → Except FaultCause State} {s t : State}

/-- R238: a live block is faulted by the fault entry alone. -/
theorem FaultsOnlyAs.complete (h : FaultsOnlyAs cause rule) (hlive : s.Live) (hf : (complete rule s).fault = true) :
    ∃ c, cause = some c ∧ complete rule s = takeFault c s := by
  cases hr : rule s with
  | ok u =>
    rw [complete_ok hr, h.keeps hr, hlive] at hf
    cases hf
  | error c => exact ⟨c, h.raises hr, complete_error hr⟩

theorem FaultsOnlyAs.runCommand (h : FaultsOnlyAs cause rule) (hlive : s.Live) (ht : runCommand rule s = .next t)
    (hf : t.fault = true) : ∃ c, cause = some c ∧ t = takeFault c s := by
  rw [runCommand_live rule s hlive] at ht
  cases ht
  exact h.complete hlive hf

theorem FaultsOnlyAs.runEvent (h : FaultsOnlyAs cause rule) (hlive : s.Live) (ht : runEvent rule s = .next t)
    (hf : t.fault = true) : ∃ c, cause = some c ∧ t = takeFault c s := by
  cases hconf : s.configured with
  | true =>
    rw [runEvent_active rule s hlive hconf] at ht
    cases ht
    exact h.complete hlive hf
  | false =>
    rw [runEvent_unconfigured rule s hlive hconf] at ht
    cases ht
    exact absurd hf (by simp [hlive])

end

/-! ### EDGE (R118, R235) -/

theorem CaptureOnly.fault_eq {s t : State} (h : CaptureOnly s t) : t.fault = s.fault := by
  rw [CaptureOnly] at h
  rw [h]

theorem fieldStep_error {dt : BitVec 16} {limit : Nat} {next : Phase} {s : State} {c : FaultCause}
    (h : fieldStep dt limit next s = .error c) : c = .bufferOverrun := by
  by_cases hc : classify s.tickUs dt (fieldMark s) = .outOfTolerance
  · rw [fieldStep_reject limit next hc] at h
    cases h
  · obtain hroom | hfull := Nat.lt_or_ge s.bbLen.toNat 36
    · rw [fieldStep_room limit next hc hroom] at h
      cases h
    · rw [fieldStep_full limit next hc hfull] at h
      cases h
      rfl

/-- R235: only the three field phases append. -/
theorem phaseStep_error {dt : BitVec 16} {s : State} {c : FaultCause} (h : phaseStep dt s = .error c) :
    c = .bufferOverrun := by
  unfold phaseStep at h
  cases hp : s.phase <;> rw [hp] at h
  case systemCodeField | addressField | commandField => exact fieldStep_error h
  all_goals cases h

theorem edgeRule_faultsOnlyAs (dt : BitVec 16) : FaultsOnlyAs (some .bufferOverrun) (edgeRule dt) where
  keeps {s t} ht := by
    cases hr : s.frameReady with
    | true =>
      rw [edgeRule_waiting dt hr] at ht
      cases ht
      rfl
    | false =>
      rw [edgeRule_clear dt hr] at ht
      exact (phaseStep_captureOnly ht).fault_eq
  raises {s c} ht := by
    cases hr : s.frameReady with
    | true =>
      rw [edgeRule_waiting dt hr] at ht
      cases ht
    | false =>
      rw [edgeRule_clear dt hr] at ht
      rw [phaseStep_error ht]

/-! ### POLL (R162, R234) -/

theorem clearService_fault (s : State) : (clearService s).fault = s.fault := by
  unfold clearService
  split_ifs <;> rfl

theorem takeFrame_fault (s : State) : (takeFrame s).fault = s.fault := by
  unfold takeFrame
  split_ifs <;> rfl

theorem pollFrame_faultsOnlyAs : FaultsOnlyAs (some .malformedFrameReady) pollFrame where
  keeps {s t} ht := by
    unfold pollFrame at ht
    split_ifs at ht <;> cases ht
    · exact takeFrame_fault s
    · rw [reportLevel_eq]
  raises {s c} ht := by
    unfold pollFrame at ht
    split_ifs at ht
    cases ht
    rfl

theorem pollRule_faultsOnlyAs : FaultsOnlyAs (some .malformedFrameReady) pollRule where
  keeps {s _} ht := (pollFrame_faultsOnlyAs.keeps ht).trans (clearService_fault s)
  raises ht := pollFrame_faultsOnlyAs.raises ht

/-! ### The rules without a fault -/

theorem tickRule_fault (s : State) : (tickRule s).fault = s.fault := by
  rw [tickRule, countClear_eq, countIdle_eq, respond_fault]

theorem disableRule_fault (sys cmd : BitVec 8) (s : State) : (disableRule sys cmd s).fault = s.fault := by
  unfold disableRule
  split_ifs
  · rfl
  · cases fillLowestFree (pairKey sys cmd) s.reg <;> rfl

theorem enableRule_fault (sys cmd : BitVec 8) (s : State) : (enableRule sys cmd s).fault = s.fault := by
  unfold enableRule
  split_ifs <;> rfl

/-! ### Every instruction -/

/-- The fault an instruction may raise (R234, R235). -/
def faultOf : Instr → Option FaultCause
  | .poll => some .malformedFrameReady
  | .edge _ => some .bufferOverrun
  | _ => none

theorem eq_takeFault_of_exec {i : Instr} {s t : State} (hlive : s.Live) (ht : exec i s = .next t) (hf : t.fault = true) :
    ∃ c, faultOf i = some c ∧ t = takeFault c s := by
  cases i with
  | nop => exact (faultsOnlyAs_pure fun _ => respond_fault _ _ _).runCommand hlive ht hf
  | init ivl => exact (faultsOnlyAs_pure (f := initRule ivl) fun _ => rfl).runCommand hlive ht hf
  | edge dt => exact (edgeRule_faultsOnlyAs dt).runEvent hlive ht hf
  | tick => exact (faultsOnlyAs_pure tickRule_fault).runEvent hlive ht hf
  | poll => exact pollRule_faultsOnlyAs.runCommand hlive ht hf
  | disable sys cmd => exact (faultsOnlyAs_pure (disableRule_fault sys cmd)).runCommand hlive ht hf
  | enable sys cmd => exact (faultsOnlyAs_pure (enableRule_fault sys cmd)).runCommand hlive ht hf
  | contains sys cmd => exact (faultsOnlyAs_pure fun _ => respond_fault _ _ _).runCommand hlive ht hf
  | readFrame => exact (faultsOnlyAs_pure fun _ => respond_fault _ _ _).runCommand hlive ht hf
  | readStatus =>
    cases ht
    exact absurd hf (by simp [hlive])
  | reservedAB op rest | reservedCF op rest =>
    obtain ⟨st, rfl⟩ := refuseIllegal_next ht
    exact absurd hf (by simp [hlive])

theorem takeFault_malformedFrameReady (s : State) :
    takeFault .malformedFrameReady s = { s with fault := true, faultCode := 4, resp := some 0x30000000#32 } := by
  simp [takeFault, FaultCause.code, FaultCause.condition, Condition.code]

/-- Settles O15: the fault entry starts from the state before the command (R239). -/
theorem faultsArePrecise : Obligations.FaultsArePrecise := by
  unfold Obligations.FaultsArePrecise
  intro i s t hlive ht hf
  obtain ⟨c, hcause, rfl⟩ := eq_takeFault_of_exec hlive ht hf
  cases i with
  | poll =>
    cases hcause
    exact .inl ⟨takeFault_malformedFrameReady s, rfl⟩
  | edge dt =>
    cases hcause
    exact .inr ⟨takeFault_bufferOverrun s, dt, rfl⟩
  | _ => cases hcause

/-! ## The registry as the set of held keys (R190) -/

theorem containsPair_iff_mem_heldKeys (reg : List Slot) (sys cmd : BitVec 8) :
    containsPair reg sys cmd = true ↔ pairKey sys cmd ∈ heldKeys reg :=
  (containsPair_iff reg sys cmd).trans (mem_heldKeys_iff reg (pairKey sys cmd)).symm

/-- R195: a slot that is filled was free, so it adds its key and loses none. -/
theorem mem_heldKeys_fillLowestFree {key : BitVec 16} {reg reg' : List Slot} (h : fillLowestFree key reg = some reg')
    (k : BitVec 16) : k ∈ heldKeys reg' ↔ k = key ∨ k ∈ heldKeys reg := by
  obtain ⟨hnone, -⟩ | ⟨pre, sl, post, rfl, -, hfree, hsome⟩ := fillLowestFree_cases key reg
  · rw [hnone] at h
    cases h
  · obtain rfl : pre ++ { valid := true, key := key } :: post = reg' := Option.some.inj (hsome.symm.trans h)
    simp only [heldKeys_append, heldKeys_cons_valid, heldKeys_cons_free _ _ hfree, List.mem_append, List.mem_cons]
    exact or_left_comm

/-- R195: any free slot lets the key in. -/
theorem exists_fillLowestFree (key : BitVec 16) {reg : List Slot} (h : ∃ x ∈ reg, x.valid = false) :
    ∃ reg', fillLowestFree key reg = some reg' := by
  obtain ⟨-, hfull⟩ | ⟨_, _, _, -, -, -, hsome⟩ := fillLowestFree_cases key reg
  · obtain ⟨x, hx, hfree⟩ := h
    rw [hfull x hx] at hfree
    cases hfree
  · exact ⟨_, hsome⟩

theorem fillLowestFree_full (key : BitVec 16) {reg : List Slot} (h : ∀ x ∈ reg, x.valid = true) :
    fillLowestFree key reg = none := by
  obtain ⟨hnone, -⟩ | ⟨pre, sl, post, rfl, -, hfree, -⟩ := fillLowestFree_cases key reg
  · exact hnone
  · rw [h sl (by simp)] at hfree
    cases hfree

/-- R193: with distinct keys the key that is dropped is held no more. -/
theorem not_mem_heldKeys_dropKey (key : BitVec 16) {reg : List Slot} (h : (heldKeys reg).Nodup) :
    key ∉ heldKeys (dropKey key reg) := by
  obtain ⟨hsame, habsent⟩ | ⟨pre, post, rfl, -, hdrop⟩ := dropKey_cases key reg
  · rwa [hsame, mem_heldKeys_iff]
  · rw [heldKeys_append, heldKeys_cons_valid, List.nodup_middle, List.nodup_cons] at h
    rw [hdrop, heldKeys_append, heldKeys_cons_free _ _ rfl]
    exact h.1

/-- R193: dropping a held key frees its slot. -/
theorem exists_free_dropKey {key : BitVec 16} {reg : List Slot} (h : key ∈ heldKeys reg) :
    ∃ x ∈ dropKey key reg, x.valid = false := by
  obtain ⟨-, habsent⟩ | ⟨pre, post, -, -, hdrop⟩ := dropKey_cases key reg
  · exact absurd ((mem_heldKeys_iff reg key).mp h) habsent
  · exact ⟨{ valid := false, key := key }, by simp [hdrop], rfl⟩

/-! ## DISABLE and ENABLE by that set (R192, R193) -/

theorem disableRule_full {sys cmd : BitVec 8} {s : State} (habsent : pairKey sys cmd ∉ heldKeys s.reg)
    (hfull : ∀ x ∈ s.reg, x.valid = true) : disableRule sys cmd s = { s with resp := some 0x10000000#32 } := by
  rw [disableRule, if_neg (mt (containsPair_iff_mem_heldKeys _ _ _).mp habsent), fillLowestFree_full _ hfull]
  rfl

theorem disableRule_added {sys cmd : BitVec 8} {s : State} {reg : List Slot}
    (habsent : pairKey sys cmd ∉ heldKeys s.reg) (hfill : fillLowestFree (pairKey sys cmd) s.reg = some reg) :
    disableRule sys cmd s = { s with reg := reg, resp := some 1#32 } := by
  rw [disableRule, if_neg (mt (containsPair_iff_mem_heldKeys _ _ _).mp habsent), hfill]
  rfl

theorem enableRule_held {sys cmd : BitVec 8} {s : State} (hheld : pairKey sys cmd ∈ heldKeys s.reg) :
    enableRule sys cmd s = { s with reg := dropKey (pairKey sys cmd) s.reg, resp := some 1#32 } := by
  rw [enableRule, if_pos ((containsPair_iff_mem_heldKeys _ _ _).mpr hheld)]
  rfl

/-! ## A presented DISABLE or ENABLE is the next step (R72) -/

theorem narrowFields_commandWord_pairOpd (op : BitVec 4) (sys cmd : BitVec 8) :
    opdHighOf (commandWord op (pairOpd sys cmd)) = 0 ∧ sysOf (commandWord op (pairOpd sys cmd)) = sys ∧
      cmdOf (commandWord op (pairOpd sys cmd)) = cmd := by
  have hsys := sys.isLt
  have hcmd := cmd.isLt
  refine ⟨?_, ?_, ?_⟩ <;> apply BitVec.eq_of_toNat_eq <;>
    simp only [opdHighOf, sysOf, cmdOf, toNat_field, toNat_commandWord, toNat_pairOpd, BitVec.ofNat_eq_ofNat,
      BitVec.toNat_zero] <;> omega

/-- R74: the fields of a registry command's word are legal and hold its pair. -/
theorem decodeNarrow_pairWord (op : BitVec 4) (sys cmd : BitVec 8) (i : Instr) :
    decodeNarrow (commandWord op (pairOpd sys cmd)) i = .command i := by
  obtain ⟨hhigh, -, -⟩ := narrowFields_commandWord_pairOpd op sys cmd
  exact (decodeNarrow_command_iff _ _ _).mpr ⟨rsvOf_commandWord _ _, hhigh, rfl⟩

theorem decode_encode_disable (sys cmd : BitVec 8) : decode (encode (.disable sys cmd)) = .command (.disable sys cmd) := by
  obtain ⟨-, hsys, hcmd⟩ := narrowFields_commandWord_pairOpd 0x5#4 sys cmd
  simp [decode, encode, decodeNarrow_pairWord, hsys, hcmd]

theorem decode_encode_enable (sys cmd : BitVec 8) : decode (encode (.enable sys cmd)) = .command (.enable sys cmd) := by
  obtain ⟨-, hsys, hcmd⟩ := narrowFields_commandWord_pairOpd 0x6#4 sys cmd
  simp [decode, encode, decodeNarrow_pairWord, hsys, hcmd]

theorem step_presented {i : Instr} {is : List Instr} {s : State} {rest : List Stimulus}
    (hin : s.inbox = presented (i :: is) ++ rest) (hi : decode (encode i) = .command i) :
    step s = exec i { s with inbox := presented is ++ rest } := by
  rw [step_word s _ _ hin, runWord, hi]
  rfl

section
variable {sys cmd : BitVec 8} {s : State} {is : List Instr} {rest : List Stimulus}

theorem step_disable (hlive : s.Live) (hin : s.inbox = presented (.disable sys cmd :: is) ++ rest) :
    step s = .next (disableRule sys cmd { s with inbox := presented is ++ rest }) :=
  (step_presented hin (decode_encode_disable sys cmd)).trans (runCommand_live _ _ hlive)

theorem step_enable (hlive : s.Live) (hin : s.inbox = presented (.enable sys cmd :: is) ++ rest) :
    step s = .next (enableRule sys cmd { s with inbox := presented is ++ rest }) :=
  (step_presented hin (decode_encode_enable sys cmd)).trans (runCommand_live _ _ hlive)

/-- R233: the refusal at a full registry. -/
theorem step_disable_full (hlive : s.Live) (hin : s.inbox = presented (.disable sys cmd :: is) ++ rest)
    (habsent : pairKey sys cmd ∉ heldKeys s.reg) (hfull : ∀ x ∈ s.reg, x.valid = true) :
    step s = .next { s with inbox := presented is ++ rest, resp := some 0x10000000#32 } :=
  (step_disable hlive hin).trans (congrArg _ (disableRule_full habsent hfull))

theorem step_disable_added {reg : List Slot} (hlive : s.Live)
    (hin : s.inbox = presented (.disable sys cmd :: is) ++ rest) (habsent : pairKey sys cmd ∉ heldKeys s.reg)
    (hfill : fillLowestFree (pairKey sys cmd) s.reg = some reg) :
    step s = .next { s with reg := reg, inbox := presented is ++ rest, resp := some 1#32 } :=
  (step_disable hlive hin).trans (congrArg _ (disableRule_added habsent hfill))

theorem step_enable_held (hlive : s.Live) (hin : s.inbox = presented (.enable sys cmd :: is) ++ rest)
    (hheld : pairKey sys cmd ∈ heldKeys s.reg) :
    step s = .next
      { s with reg := dropKey (pairKey sys cmd) s.reg, inbox := presented is ++ rest, resp := some 1#32 } :=
  (step_enable hlive hin).trans (congrArg _ (enableRule_held hheld))

end

/-! ## The recovery (R233) -/

/-- The slot that ENABLE of a held pair frees takes the next new pair. -/
theorem run_enable_disable {a b c d : BitVec 8} {s : State} {rest : List Stimulus} (hlive : s.Live)
    (hdistinct : s.KeysDistinct) (habsent : pairKey a b ∉ heldKeys s.reg) (hheld : pairKey c d ∈ heldKeys s.reg)
    (hin : s.inbox = presented [.enable c d, .disable a b] ++ rest) :
    ∃ t : State, Host.Core.run Sys2Proof.core 2 s = .next t ∧ t.resp = some 1#32 ∧
      pairKey a b ∈ heldKeys t.reg ∧ pairKey c d ∉ heldKeys t.reg := by
  have habsent' : pairKey a b ∉ heldKeys (dropKey (pairKey c d) s.reg) :=
    fun h => habsent ((heldKeys_dropKey_sublist _ _).subset h)
  obtain ⟨reg, hfill⟩ := exists_fillLowestFree (pairKey a b) (exists_free_dropKey hheld)
  have hset := mem_heldKeys_fillLowestFree hfill
  have hne : pairKey c d ≠ pairKey a b := fun h => habsent (h ▸ hheld)
  refine ⟨{ s with reg := reg, inbox := rest, resp := some 1#32 }, ?_, rfl, (hset _).mpr (.inl rfl), fun h => ?_⟩
  · rw [run_succ 1 s _ (step_enable_held hlive hin hheld)]
    exact run_succ 0 _ _ (step_disable_added (is := []) hlive rfl habsent' hfill)
  · exact ((hset _).mp h).elim hne (not_mem_heldKeys_dropKey _ hdistinct)

/-- Settles O53: the refused DISABLE leaves the slots as they were, and ENABLE frees one of them. -/
theorem fullRegistryRecoversAfterEnable : Obligations.FullRegistryRecoversAfterEnable := by
  unfold Obligations.FullRegistryRecoversAfterEnable
  intro a b c d s rest hlive hfull hdistinct habsent hheld hin
  simp only [← mem_heldKeys_iff] at habsent hheld ⊢
  have hrefused := step_disable_full hlive hin habsent hfull
  refine ⟨run_succ 0 s _ hrefused, ?_⟩
  rw [run_succ 2 s _ hrefused]
  exact run_enable_disable hlive hdistinct habsent hheld rfl

end Sys2Proof.Machine

/-! # Reset and hazards (spec/70_reset_and_hazards.md)

Power-on reset and INIT are read against the one power-on state `State.por` of the build. A registry change reaches the next
POLL (R271) because the level that POLL reports depends on the registry only through whether it holds the stored pair, and
DISABLE and ENABLE write nothing else that POLL reads. -/

namespace Sys2Proof.Machine

/-! ## Power-on reset (R260) -/

theorem powerOn_slot_free {s : State} {sl : Slot} (h : sl ∈ (powerOn s).reg) : sl.valid = false ∧ sl.key = 0 := by
  obtain rfl := List.eq_of_mem_replicate h
  exact ⟨rfl, rfl⟩

/-- R37: power-on reset is a reset of the same build. -/
theorem powerOn_build (s : State) : (powerOn s).build = s.build :=
  congrArg (Build.mk s.tickUs s.tovfUs) List.length_replicate

/-- R212, R260: the default clear interval fits its register. -/
theorem powerOn_cfgClrTicks (s : State) : (powerOn s).cfgClrTicks.toNat = clrTicksFor s.tovfUs 0 :=
  toNat_clrTicksFor s.tovfUs 0 (by decide)

/-- Settles O16: the registers are those of `State.por`, and the default interval is the least that lasts the floor. -/
theorem powerOnResetState : Obligations.PowerOnResetState := by
  unfold Obligations.PowerOnResetState
  intro s rest htovf hin
  have hleast := clrTicksFor_le_iff htovf 0
  exact ⟨_, clrTicksFor s.tovfUs 0, step_powerOnReset s rest hin,
    rfl, rfl, rfl, fun i _ => bbRead_bbZero i,
    rfl, rfl, rfl, rfl, rfl,
    rfl, rfl, rfl,
    fun _ => powerOn_slot_free, rfl,
    ⟨(hleast _).mp le_rfl, fun r => (hleast r).mpr⟩, powerOn_cfgClrTicks _,
    rfl, rfl, rfl, rfl, powerOn_inv _,
    powerOn_build _, rfl, rfl⟩

/-! ## INIT (R261) -/

/-- R261: INIT does not write `fault`, which is 0 already where INIT runs. -/
theorem initRule_eq_por (ivl : BitVec 24) {s : State} (hlive : s.Live) :
    initRule ivl s =
      { State.por s.build with
        configured := true, cfgClrTicks := BitVec.ofNat 24 (clrTicksFor s.tovfUs ivl.toNat), reg := s.reg
        faultCode := s.faultCode, inbox := s.inbox, resp := some 0#32 } := by
  rw [initRule, respond_ok_zero, hlive]
  rfl

/-- Settles O17. -/
theorem initLeavesPowerOnStateButConfiguration : Obligations.InitLeavesPowerOnStateButConfiguration := by
  unfold Obligations.InitLeavesPowerOnStateButConfiguration
  intro ivl s hlive
  rw [← initRule_eq_por ivl hlive]
  exact runCommand_live (fun s => .ok (initRule ivl s)) s hlive

/-! ## A registry change before a POLL (R271) -/

/-- R192: DISABLE of a pair already held only answers. -/
theorem disableRule_held {sys cmd : BitVec 8} {s : State} (hheld : pairKey sys cmd ∈ heldKeys s.reg) :
    disableRule sys cmd s = { s with resp := some 2#32 } := by
  rw [disableRule, if_pos ((containsPair_iff_mem_heldKeys _ _ _).mpr hheld)]
  rfl

/-- R193: ENABLE of a pair not held only answers. -/
theorem enableRule_absent {sys cmd : BitVec 8} {s : State} (habsent : pairKey sys cmd ∉ heldKeys s.reg) :
    enableRule sys cmd s = { s with resp := some 0#32 } := by
  rw [enableRule, if_neg (mt (containsPair_iff_mem_heldKeys _ _ _).mp habsent)]
  rfl

/-- R192: with the pair held or a slot free, DISABLE leaves the pair held and writes only the slots. -/
theorem disableRule_leaves_held {sys cmd : BitVec 8} {s : State}
    (hroom : pairKey sys cmd ∈ heldKeys s.reg ∨ ∃ x ∈ s.reg, x.valid = false) :
    ∃ reg resp, disableRule sys cmd s = { s with reg := reg, resp := resp } ∧ pairKey sys cmd ∈ heldKeys reg := by
  by_cases hheld : pairKey sys cmd ∈ heldKeys s.reg
  · exact ⟨s.reg, _, disableRule_held hheld, hheld⟩
  · obtain ⟨reg, hfill⟩ := exists_fillLowestFree (pairKey sys cmd) (hroom.resolve_left hheld)
    exact ⟨reg, _, disableRule_added hheld hfill, (mem_heldKeys_fillLowestFree hfill _).mpr (.inl rfl)⟩

/-- R193: ENABLE leaves the pair not held and writes only the slots. -/
theorem enableRule_leaves_absent {s : State} (sys cmd : BitVec 8) (hdistinct : s.KeysDistinct) :
    ∃ reg resp, enableRule sys cmd s = { s with reg := reg, resp := resp } ∧ pairKey sys cmd ∉ heldKeys reg := by
  by_cases hheld : pairKey sys cmd ∈ heldKeys s.reg
  · exact ⟨_, _, enableRule_held hheld, not_mem_heldKeys_dropKey _ hdistinct⟩
  · exact ⟨s.reg, _, enableRule_absent hheld, hheld⟩

/-- R166, R167: with no frame waiting and the level up, POLL answers whether the stored pair is absent. -/
theorem resp_poll_level {s : State} (hr : s.frameReady = false) (havail : s.avail = true) :
    (reportLevel (clearService s)).resp =
      some (if pairKey s.resSys s.resCmd ∈ heldKeys s.reg then 0#32 else 1#32) := by
  rw [reportLevel_eq, clearService_eq hr]
  simp only [havail, true_and, pairKey, mem_heldKeys_iff, ite_not]

theorem step_poll_empty {s : State} {is : List Instr} {rest : List Stimulus} (hlive : s.Live)
    (hr : s.frameReady = false) (hin : s.inbox = presented (.poll :: is) ++ rest) :
    step s = .next (reportLevel (clearService { s with inbox := presented is ++ rest })) :=
  (step_presented hin (by decide)).trans (exec_poll_next hlive (pollRule_empty hr))

/-- A first step that writes only the slots, then the POLL: the answer follows the new slots. -/
theorem run_registry_poll {s : State} {reg : List Slot} {resp : Option Word} {rest : List Stimulus} (hlive : s.Live)
    (hr : s.frameReady = false) (havail : s.avail = true)
    (hstep : step s = .next { s with reg := reg, inbox := presented [.poll] ++ rest, resp := resp }) :
    ∃ t, Host.Core.run Sys2Proof.core 2 s = .next t ∧
      t.resp = some (if pairKey s.resSys s.resCmd ∈ heldKeys reg then 0#32 else 1#32) := by
  refine ⟨_, ?_, resp_poll_level (s := { s with reg := reg, inbox := rest, resp := resp }) hr havail⟩
  rw [run_succ 1 s _ hstep]
  exact run_succ 0 _ _ (step_poll_empty (is := []) hlive hr rfl)

/-- Settles O54: DISABLE leaves the stored pair held, ENABLE leaves it not held, and the POLL after it answers so. -/
theorem registryChangeReachesTheNextPoll : Obligations.RegistryChangeReachesTheNextPoll := by
  unfold Obligations.RegistryChangeReachesTheNextPoll
  intro s rest hlive hr havail hdistinct
  simp only [← mem_heldKeys_iff]
  refine ⟨fun hin hroom => ?_, fun hin => ?_⟩
  · obtain ⟨reg, resp, hrule, hheld⟩ :=
      disableRule_leaves_held (s := { s with inbox := presented [.poll] ++ rest }) hroom
    obtain ⟨t, hrun, hanswer⟩ := run_registry_poll hlive hr havail ((step_disable hlive hin).trans (congrArg _ hrule))
    exact ⟨t, hrun, hanswer.trans (by rw [if_pos hheld])⟩
  · obtain ⟨reg, resp, hrule, habsent⟩ :=
      enableRule_leaves_absent (s := { s with inbox := presented [.poll] ++ rest }) s.resSys s.resCmd hdistinct
    obtain ⟨t, hrun, hanswer⟩ := run_registry_poll hlive hr havail ((step_enable hlive hin).trans (congrArg _ hrule))
    exact ⟨t, hrun, hanswer.trans (by rw [if_neg habsent])⟩

end Sys2Proof.Machine

/-! # Encoding and decoding (spec/30_encoding.md)

Both directions of the round trip go format by format: a word is its fields (`commandWord_fields`), and the fields of a word
written from its parts are the parts. The rows of the opcode table differ already in their opcode bits, so that they never
overlap is a fact about the sixteen opcodes. -/

namespace Sys2Proof.Machine

/-! ## Decoding what was encoded (R72, R83) -/

theorem decode_encode_contains (sys cmd : BitVec 8) :
    decode (encode (.contains sys cmd)) = .command (.contains sys cmd) := by
  obtain ⟨-, hsys, hcmd⟩ := narrowFields_commandWord_pairOpd 0x7#4 sys cmd
  simp [decode, encode, decodeNarrow_pairWord, hsys, hcmd]

theorem decode_encode_init (ivl : BitVec 24) : decode (encode (.init ivl)) = .command (.init ivl) := by
  simp [decode, encode, decodeWide_command_iff]

/-- The operand of EDGE lies below the reserved byte of OPD (R72). -/
theorem edgeFields_commandWord (op : BitVec 4) (dt : BitVec 16) :
    opdHighOf (commandWord op (0#8 ++ dt)) = 0 ∧ dtOf (commandWord op (0#8 ++ dt)) = dt := by
  have hdt := dt.isLt
  refine ⟨?_, ?_⟩ <;> apply BitVec.eq_of_toNat_eq <;>
    simp only [opdHighOf, dtOf, toNat_field, toNat_commandWord, toNat_append_eq, BitVec.ofNat_eq_ofNat,
      BitVec.toNat_zero] <;> omega

theorem decode_encode_edge (dt : BitVec 16) : decode (encode (.edge dt)) = .command (.edge dt) := by
  obtain ⟨hhigh, hdt⟩ := edgeFields_commandWord 0x2#4 dt
  simp [decode, encode, decodeNarrow_command_iff, hhigh, hdt]

theorem opOf_append (op : BitVec 4) (rest : BitVec 28) : opOf (op ++ rest) = op := BitVec.extractLsb'_append_eq_left

theorem restOf_append (op : BitVec 4) (rest : BitVec 28) : restOf (op ++ rest) = rest :=
  BitVec.extractLsb'_append_eq_right

theorem decode_encode_reservedAB {op : BitVec 4} (rest : BitVec 28) (hop : op = 0xA#4 ∨ op = 0xB#4) :
    decode (encode (.reservedAB op rest)) = .command (.reservedAB op rest) := by
  obtain rfl | rfl := hop <;> simp only [decode, encode, opOf_append, restOf_append] <;> rfl

/-- R75: every opcode above 0xB is in the second RESERVED row. -/
theorem decode_of_opcode_ge {w : Word} (h : 0xC ≤ (opOf w).toNat) :
    decode w = .command (.reservedCF (opOf w) (restOf w)) := by
  unfold decode
  split
  case h_13 => rfl
  all_goals omega

theorem decode_encode_reservedCF {op : BitVec 4} (rest : BitVec 28) (hop : 0xC ≤ op.toNat) :
    decode (encode (.reservedCF op rest)) = .command (.reservedCF op rest) := by
  have hfields : opOf (encode (.reservedCF op rest)) = op := opOf_append op rest
  rw [decode_of_opcode_ge (by rwa [hfields]), hfields]
  exact congrArg _ (congrArg _ (restOf_append op rest))

/-- Settles O1, format by format. -/
theorem decodeReadsBackEveryEncoding : Obligations.DecodeReadsBackEveryEncoding := by
  unfold Obligations.DecodeReadsBackEveryEncoding
  intro i hwf
  cases i with
  | nop | tick | poll | readFrame | readStatus => decide
  | init ivl => exact decode_encode_init ivl
  | edge dt => exact decode_encode_edge dt
  | disable sys cmd => exact decode_encode_disable sys cmd
  | enable sys cmd => exact decode_encode_enable sys cmd
  | contains sys cmd => exact decode_encode_contains sys cmd
  | reservedAB op rest => exact decode_encode_reservedAB rest (of_decide_eq_true hwf)
  | reservedCF op rest => exact decode_encode_reservedCF rest (of_decide_eq_true hwf)

/-! ## Encoding what was decoded (R74) -/

/-- R70: a word with RSV = 0 is its opcode and its operands. -/
theorem commandWord_fields {w : Word} {op : BitVec 4} (hop : (opOf w).toNat = op.toNat) (hrsv : rsvOf w = 0) :
    commandWord op (opdOf w) = w := by
  apply BitVec.eq_of_toNat_eq
  simp [toNat_commandWord, word_fields w, hop, hrsv]

theorem commandWord_plain {w : Word} {op : BitVec 4} (hop : (opOf w).toNat = op.toNat) (hrsv : rsvOf w = 0)
    (hopd : opdOf w = 0) : commandWord op 0 = w := hopd ▸ commandWord_fields hop hrsv

/-- R72: with its high byte 0, OPD is DT. -/
theorem opdOf_eq_dt {w : Word} (hhigh : opdHighOf w = 0) : opdOf w = 0#8 ++ dtOf w := by
  apply BitVec.eq_of_toNat_eq
  rw [opd_fields, hhigh, toNat_append_eq]
  rfl

theorem opdOf_eq_pairOpd {w : Word} (hhigh : opdHighOf w = 0) : opdOf w = pairOpd (sysOf w) (cmdOf w) := by
  apply BitVec.eq_of_toNat_eq
  rw [toNat_pairOpd, opd_fields, hhigh, ← pair_fields]
  simp

theorem commandWord_dt {w : Word} {op : BitVec 4} (hop : (opOf w).toNat = op.toNat) (hrsv : rsvOf w = 0)
    (hhigh : opdHighOf w = 0) : commandWord op (0#8 ++ dtOf w) = w :=
  opdOf_eq_dt hhigh ▸ commandWord_fields hop hrsv

theorem commandWord_pair {w : Word} {op : BitVec 4} (hop : (opOf w).toNat = op.toNat) (hrsv : rsvOf w = 0)
    (hhigh : opdHighOf w = 0) : commandWord op (pairOpd (sysOf w) (cmdOf w)) = w :=
  opdOf_eq_pairOpd hhigh ▸ commandWord_fields hop hrsv

theorem opOf_append_restOf (w : Word) : opOf w ++ restOf w = w :=
  (BitVec.extractLsb'_append_extractLsb'_eq_extractLsb' rfl).trans BitVec.extractLsb'_eq_self

/-- Settles O2: the legal fields of each format determine every bit of the word. -/
theorem encodeWritesBackEveryDecodedWord : Obligations.EncodeWritesBackEveryDecodedWord := by
  unfold Obligations.EncodeWritesBackEveryDecodedWord
  intro w i h
  unfold decode at h
  split at h
  case h_1 hop | h_4 hop | h_5 hop | h_9 hop | h_10 hop =>
    obtain ⟨hrsv, hopd, rfl⟩ := (decodePlain_command_iff _ _ _).mp h
    exact ⟨rfl, commandWord_plain hop hrsv hopd⟩
  case h_2 hop =>
    obtain ⟨hrsv, rfl⟩ := (decodeWide_command_iff _ _ _).mp h
    exact ⟨rfl, commandWord_fields hop hrsv⟩
  case h_3 hop =>
    obtain ⟨hrsv, hhigh, rfl⟩ := (decodeNarrow_command_iff _ _ _).mp h
    exact ⟨rfl, commandWord_dt hop hrsv hhigh⟩
  case h_6 hop | h_7 hop | h_8 hop =>
    obtain ⟨hrsv, hhigh, rfl⟩ := (decodeNarrow_command_iff _ _ _).mp h
    exact ⟨rfl, commandWord_pair hop hrsv hhigh⟩
  case h_11 hop =>
    cases h
    exact ⟨decide_eq_true (.inl (BitVec.eq_of_toNat_eq hop)), opOf_append_restOf w⟩
  case h_12 hop =>
    cases h
    exact ⟨decide_eq_true (.inr (BitVec.eq_of_toNat_eq hop)), opOf_append_restOf w⟩
  case h_13 =>
    cases h
    have hop : 0xC ≤ (opOf w).toNat := by
      simp only [imp_false] at *
      omega
    exact ⟨decide_eq_true hop, opOf_append_restOf w⟩

/-! ## The rows of the opcode table (R85) -/

theorem opOf_and (a b : Word) : opOf (a &&& b) = opOf a &&& opOf b := BitVec.extractLsb'_and

theorem restOf_and (a b : Word) : restOf (a &&& b) = restOf a &&& restOf b := BitVec.extractLsb'_and

/-- A word that agrees with a row agrees with it in the opcode bits. -/
theorem opcode_of_match {w m p : Word} (h : w &&& m = p) : opOf w &&& opOf m = opOf p := by
  rw [← opOf_and, h]

/-- A row that fixes opcode bits only. -/
theorem match_iff_opcode {w m p : Word} (hm : restOf m = 0) (hp : restOf p = 0) :
    w &&& m = p ↔ opOf w &&& opOf m = opOf p := by
  refine ⟨opcode_of_match, fun hop => ?_⟩
  rw [← opOf_append_restOf (w &&& m), opOf_and, hop, restOf_and, hm, ← opOf_append_restOf p, opOf_append, hp]
  simp

/-- The rows are disjoint in their opcode bits alone. -/
theorem rows_disjoint_on_opcode : ∀ op : BitVec 4, (commandRows ++ reservedRows).Pairwise fun a b =>
    ¬(op &&& opOf a.mask = opOf a.pattern ∧ op &&& opOf b.mask = opOf b.pattern) := by decide

theorem reservedRow_iff_opcode (op : BitVec 4) :
    op &&& 0xE#4 = 0xA#4 ∨ op &&& 0xC#4 = 0xC#4 ↔ 0xA ≤ op.toNat := by
  revert op
  decide

theorem exists_reservedRow_iff (w : Word) :
    (∃ r ∈ reservedRows, w &&& r.mask = r.pattern) ↔ 0xA ≤ (opOf w).toNat := by
  have hAB : w &&& 0xE0000000#32 = 0xA0000000#32 ↔ opOf w &&& 0xE#4 = 0xA#4 := match_iff_opcode (by decide) (by decide)
  have hCF : w &&& 0xC0000000#32 = 0xC0000000#32 ↔ opOf w &&& 0xC#4 = 0xC#4 := match_iff_opcode (by decide) (by decide)
  rw [← reservedRow_iff_opcode, ← hAB, ← hCF]
  simp [reservedRows]

/-- Settles O4: two rows that a word matched would share its opcode. -/
theorem opcodeTableRowsNeverOverlap : Obligations.OpcodeTableRowsNeverOverlap := by
  unfold Obligations.OpcodeTableRowsNeverOverlap
  intro w
  refine ⟨(rows_disjoint_on_opcode (opOf w)).imp ?_, exists_reservedRow_iff w⟩
  rintro a b hdisjoint ⟨ha, hb⟩
  exact hdisjoint ⟨opcode_of_match ha, opcode_of_match hb⟩

/-! ## The written words (R83) -/

theorem commandWord_eq_or (op : BitVec 4) (opd : BitVec 24) :
    commandWord op opd = op.setWidth 32 <<< 28 ||| opd.setWidth 32 := by
  have hwhole : commandWord op opd = (op ++ (0#4 ++ opd)).setWidth 32 := (BitVec.setWidth_eq _).symm
  have hword := BitVec.setWidth_append_eq_shiftLeft_setWidth_or (b := op) (b' := 0#4 ++ opd) (w'' := 32)
  have hopd := BitVec.setWidth_append_eq_shiftLeft_setWidth_or (b := 0#4) (b' := opd) (w'' := 32)
  rw [hwhole, hword, hopd]
  simp

theorem setWidth_zero_append_dt (dt : BitVec 16) : (0#8 ++ dt : BitVec 24).setWidth 32 = dt.setWidth 32 := by
  have h := BitVec.setWidth_append_eq_shiftLeft_setWidth_or (b := 0#8) (b' := dt) (w'' := 32)
  simpa using h

theorem setWidth_pairOpd (sys cmd : BitVec 8) :
    (pairOpd sys cmd).setWidth 32 = sys.setWidth 32 <<< 8 ||| cmd.setWidth 32 := by
  have hpair := BitVec.setWidth_append_eq_shiftLeft_setWidth_or (b := sys) (b' := cmd) (w'' := 32)
  have hopd := BitVec.setWidth_append_eq_shiftLeft_setWidth_or (b := 0#8) (b' := sys ++ cmd) (w'' := 32)
  simpa [pairOpd, hpair] using hopd

/-- Settles O5: each word is its opcode or-ed with OPD, and OPD its operands at their places. -/
theorem assembledWordsOfOperandCommands : Obligations.AssembledWordsOfOperandCommands := by
  unfold Obligations.AssembledWordsOfOperandCommands
  refine ⟨fun ivl => commandWord_eq_or 0x1#4 ivl, fun dt => ?_, fun s c => ?_, fun s c => ?_, fun s c => ?_⟩
  · exact (commandWord_eq_or 0x2#4 _).trans (by rw [setWidth_zero_append_dt]; rfl)
  all_goals
    simp only [encode, commandWord_eq_or, setWidth_pairOpd, BitVec.or_assoc]
    rfl

/-- Settles O6. -/
theorem writtenWordsDecode : Obligations.WrittenWordsDecode := by
  unfold Obligations.WrittenWordsDecode
  decide

end Sys2Proof.Machine

/-! # Commands that say no more than their rule (spec/44_control.md, spec/30_encoding.md)

Dispatch, refusals, INIT, the window constants, the fault of POLL, and DISABLE and ENABLE at given slots: each is one law of
the model read at the command's own words or registers. -/

namespace Sys2Proof.Machine

/-! ## Dispatch (R5, R216) -/

theorem runWord_command {w : Word} {i : Instr} (h : decode w = .command i) (s : State) : runWord w s = exec i s := by
  rw [runWord, h]

/-- Settles O7. -/
theorem presentedWordRunsAsItsCommand : Obligations.PresentedWordRunsAsItsCommand := by
  unfold Obligations.PresentedWordRunsAsItsCommand
  intro s w rest i hin hw
  rw [step_word s w rest hin, runWord_command hw]

/-- Settles O9: both rows are refused as words outside the table are. -/
theorem reservedOpcodesAnswerIllegal : Obligations.ReservedOpcodesAnswerIllegal := by
  unfold Obligations.ReservedOpcodesAnswerIllegal
  intro op rest s hlive
  rw [exec_of_not_command rfl, exec_of_not_command rfl, refuseIllegal_live s hlive, refuse_illegal]
  exact ⟨rfl, rfl⟩

/-- Settles O10. -/
theorem nothingPresentedChangesNothing : Obligations.NothingPresentedChangesNothing := by
  unfold Obligations.NothingPresentedChangesNothing
  intro s hin
  exact step_nil s hin

/-- R216: every form of command ends in a next state. -/
theorem exists_exec_next (i : Instr) (s : State) : ∃ t, exec i s = .next t := by
  cases i <;> exact ⟨_, rfl⟩

theorem exists_runWord_next (w : Word) (s : State) : ∃ t, runWord w s = .next t := by
  unfold runWord
  cases decode w with
  | command i => exact exists_exec_next i s
  | illegal why => exact ⟨_, rfl⟩

/-- Settles O12: nothing presented, a power-on reset, or a word. -/
theorem everyStepHasANextState : Obligations.EveryStepHasANextState := by
  unfold Obligations.EveryStepHasANextState
  refine ⟨exists_exec_next, fun s => ?_⟩
  cases hin : s.inbox with
  | nil => exact ⟨_, step_nil s hin⟩
  | cons x rest =>
    cases x with
    | powerOnReset => exact ⟨_, step_powerOnReset s rest hin⟩
    | command w =>
      rw [step_word s w rest hin]
      exact exists_runWord_next w _

/-! ## NOP and INIT (R210 to R212) -/

/-- Settles O18. -/
theorem nopOnlyAnswersOk : Obligations.NopOnlyAnswersOk := by
  unfold Obligations.NopOnlyAnswersOk
  intro s hlive
  rw [← respond_ok_zero]
  exact runCommand_live _ s hlive

/-- Settles O19: the interval stored is the least that R212 admits. -/
theorem initZeroesBuffersAndCounters : Obligations.InitZeroesBuffersAndCounters := by
  unfold Obligations.InitZeroesBuffersAndCounters
  intro ivl s hlive htovf
  have hleast := clrTicksFor_le_iff htovf ivl.toNat
  refine ⟨clrTicksFor s.tovfUs ivl.toNat, ⟨(hleast _).mp le_rfl, fun r => (hleast r).mpr⟩,
    (clrTicksFor_bounds s.tovfUs ivl.toNat ivl.isLt).2, ?_⟩
  exact runCommand_live (fun s => .ok (initRule ivl s)) s hlive

/-! ## The windows at fixed ticks (R105, R264) -/

/-- Settles O23. -/
theorem windowTicksAtReferenceAndUnitResolution : Obligations.WindowTicksAtReferenceAndUnitResolution := by
  unfold Obligations.WindowTicksAtReferenceAndUnitResolution
  intro dt
  simp only [inWin_iff]
  omega

theorem toNat_adapterDt {elapsed : Nat} (h : 65535 ≤ elapsed) : (adapterDt elapsed).toNat = 65535 := by
  rw [adapterDt, min_eq_right h]
  rfl

/-- Settles O24: at any tick the saturated count lasts longer than the widest window. -/
theorem saturatedEdgeCountIsNeverAccepted : Obligations.SaturatedEdgeCountIsNeverAccepted := by
  unfold Obligations.SaturatedEdgeCountIsNeverAccepted
  intro tickUs elapsed n htick helapsed hn
  rw [Bool.eq_false_iff, ne_eq, inWin_iff, toNat_adapterDt helapsed]
  omega

/-! ## The fault of POLL and the answer of CONTAINS (R194, R234) -/

theorem pollRule_malformed {s : State} (hr : s.frameReady = true) (hlen : s.bbLen ≠ 36) :
    pollRule s = .error .malformedFrameReady := by
  have hcount : ¬s.bbLen.toNat = Config.bbCap := fun h => hlen (BitVec.eq_of_toNat_eq h)
  rw [pollRule, clearService_of_frameReady s hr, pollFrame, if_pos hr, if_neg hcount]

/-- Settles O43. -/
theorem pollFaultsOnMalformedFrame : Obligations.PollFaultsOnMalformedFrame := by
  unfold Obligations.PollFaultsOnMalformedFrame
  intro s hlive hr hlen
  rw [← takeFault_malformedFrameReady, ← complete_error (pollRule_malformed hr hlen)]
  exact runCommand_live pollRule s hlive

/-- Settles O50. -/
theorem containsTestsMembership : Obligations.ContainsTestsMembership := by
  unfold Obligations.ContainsTestsMembership
  intro sys cmd s hlive
  simp only [← containsPair_iff, ← respond_ok_boolData]
  exact runCommand_live _ s hlive

/-! ## The invariants of R38 -/

/-- Settles O55: the power-on state has the invariants whatever the build parameters. -/
theorem powerOnStateSatisfiesInvariants : Obligations.PowerOnStateSatisfiesInvariants := by
  unfold Obligations.PowerOnStateSatisfiesInvariants
  intro b inbox _
  exact por_inv b inbox

/-- Settles O56: the step lemma of the reachable states, at any state. -/
theorem stepKeepsInvariants : Obligations.StepKeepsInvariants := by
  unfold Obligations.StepKeepsInvariants
  intro s t hinv ht
  exact step_keeps_inv hinv ht

/-! ## DISABLE and ENABLE at given slots (R192, R193, R195) -/

theorem fillLowestFree_append (key : BitVec 16) {pre : List Slot} {sl : Slot} (post : List Slot)
    (hpre : ∀ x ∈ pre, x.valid = true) (hsl : sl.valid = false) :
    fillLowestFree key (pre ++ sl :: post) = some (pre ++ { valid := true, key := key } :: post) := by
  induction pre with
  | nil => simp [fillLowestFree, hsl]
  | cons x pre ih =>
    obtain ⟨hx, hrest⟩ := List.forall_mem_cons.mp hpre
    simp [fillLowestFree, hx, ih hrest]

theorem dropKey_append {key : BitVec 16} {pre : List Slot} (post : List Slot)
    (hpre : ({ valid := true, key := key } : Slot) ∉ pre) :
    dropKey key (pre ++ { valid := true, key := key } :: post) = pre ++ { valid := false, key := key } :: post := by
  induction pre with
  | nil => simp [dropKey, Slot.holds]
  | cons x pre ih =>
    obtain ⟨hx, hrest⟩ := List.ne_and_not_mem_of_not_mem_cons hpre
    have hholds : ¬x.holds key = true := fun h => hx ((Slot.holds_iff x key).mp h).symm
    simp [dropKey, hholds, ih hrest]

theorem exec_disable_live {s : State} (hlive : s.Live) (sys cmd : BitVec 8) :
    exec (.disable sys cmd) s = .next (disableRule sys cmd s) :=
  runCommand_live (fun s => .ok (disableRule sys cmd s)) s hlive

theorem exec_enable_live {s : State} (hlive : s.Live) (sys cmd : BitVec 8) :
    exec (.enable sys cmd) s = .next (enableRule sys cmd s) :=
  runCommand_live (fun s => .ok (enableRule sys cmd s)) s hlive

/-- The pair of R191 as a held key of R190. -/
theorem mem_heldKeys_pairKey {reg : List Slot} {sys cmd : BitVec 8} :
    pairKey sys cmd ∈ heldKeys reg ↔ ({ valid := true, key := sys ++ cmd } : Slot) ∈ reg :=
  mem_heldKeys_iff reg (pairKey sys cmd)

/-- Settles O48. -/
theorem disableAddsThePairOnce : Obligations.DisableAddsThePairOnce := by
  unfold Obligations.DisableAddsThePairOnce
  intro sys cmd s hlive
  simp only [← mem_heldKeys_pairKey, exec_disable_live hlive]
  refine ⟨fun hheld => ?_, fun habsent pre post sl hreg hpre hsl => ?_, fun habsent hfull => ?_⟩
  · rw [disableRule_held hheld]
  · have hfill := fillLowestFree_append (pairKey sys cmd) post hpre hsl
    rw [← hreg] at hfill
    rw [disableRule_added habsent hfill]
    rfl
  · rw [disableRule_full habsent hfull]

/-- R190: with distinct keys only one slot holds a key. -/
theorem not_mem_pre_of_distinct {key : BitVec 16} {pre post : List Slot}
    (h : (heldKeys (pre ++ { valid := true, key := key } :: post)).Nodup) :
    ({ valid := true, key := key } : Slot) ∉ pre := by
  rw [heldKeys_append, heldKeys_cons_valid, List.nodup_middle, List.nodup_cons] at h
  rw [← mem_heldKeys_iff]
  exact fun hmem => h.1 (List.mem_append_left _ hmem)

/-- Settles O49. -/
theorem enableRemovesThePair : Obligations.EnableRemovesThePair := by
  unfold Obligations.EnableRemovesThePair
  intro sys cmd s hlive hdistinct
  simp only [exec_enable_live hlive]
  refine ⟨fun pre post hreg => ?_, fun habsent => ?_⟩
  · have hheld : pairKey sys cmd ∈ heldKeys s.reg := by
      rw [mem_heldKeys_pairKey, hreg]
      simp
    have hgone := not_mem_heldKeys_dropKey (pairKey sys cmd) hdistinct
    have hnodup : (heldKeys (pre ++ { valid := true, key := pairKey sys cmd } :: post)).Nodup := hreg ▸ hdistinct
    have hdrop : dropKey (pairKey sys cmd) s.reg = pre ++ { valid := false, key := sys ++ cmd } :: post := by
      rw [hreg]
      exact dropKey_append post (not_mem_pre_of_distinct hnodup)
    rw [hdrop, mem_heldKeys_pairKey] at hgone
    rw [enableRule_held hheld, hdrop]
    exact ⟨rfl, hgone⟩
  · rw [enableRule_absent (mt mem_heldKeys_pairKey.mp habsent)]

end Sys2Proof.Machine

/-! # What no command observes (spec/10_state.md R24, spec/43_registry.md R190)

The slots are observed only as a set of keys, and the buffer only below `bb_len`. Both are one claim about two machines that
run side by side: the slots stay related by some `P` and the buffers by some `Q` (`Alike`), if only the operations on slots
and on entries respect them (`SlotsUnseen`, `EntriesUnseen`). Each statement takes equality for the part it says nothing of. -/

namespace Sys2Proof.Machine

/-! ## Two machines side by side -/

/-- `t` is `s` but for its slots and buffer entries, which `P` and, at `bb_len`, `Q` relate to those of `s`. -/
def Alike (P : List Slot → List Slot → Prop) (Q : Nat → Vector Bool 36 → Vector Bool 36 → Prop) (s t : State) : Prop :=
  ∃ reg bb, t = { s with reg := reg, bb := bb } ∧ P s.reg reg ∧ Q s.bbLen.toNat s.bb bb

/-- The operations of R191 to R195 answer alike on related slots and leave related slots. -/
structure SlotsUnseen (P : List Slot → List Slot → Prop) : Prop where
  contains : ∀ {a b}, P a b → ∀ sys cmd, containsPair b sys cmd = containsPair a sys cmd
  fill : ∀ {a b}, P a b → ∀ key, key ∉ heldKeys a → Option.Rel P (fillLowestFree key a) (fillLowestFree key b)
  drop : ∀ {a b}, P a b → ∀ key, P (dropKey key a) (dropKey key b)

/-- The operations of R51 keep related buffers related, and a whole buffer has no unrelated entry left. -/
structure EntriesUnseen (Q : Nat → Vector Bool 36 → Vector Bool 36 → Prop) : Prop where
  empty : ∀ {n a b}, Q n a b → Q 0 a b
  write : ∀ {n a b}, Q n a b → n < 36 → ∀ v, Q (n + 1) (bbWrite a n v) (bbWrite b n v)
  zero : Q 0 bbZero bbZero
  whole : ∀ {a b}, Q 36 a b → a = b

/-- Two results of a rule: the same fault, or two machines alike. -/
inductive Matches (P : List Slot → List Slot → Prop) (Q : Nat → Vector Bool 36 → Vector Bool 36 → Prop) :
    Except FaultCause State → Except FaultCause State → Prop where
  | ok {s t : State} : Alike P Q s t → Matches P Q (.ok s) (.ok t)
  | error (c : FaultCause) : Matches P Q (.error c) (.error c)

section
variable {P : List Slot → List Slot → Prop} {Q : Nat → Vector Bool 36 → Vector Bool 36 → Prop} {s t : State}

theorem Alike.respond (h : Alike P Q s t) (st : Status) (data : BitVec 24) :
    Alike P Q (respond st data s) (respond st data t) := by
  obtain ⟨reg, bb, rfl, hreg, hbb⟩ := h
  exact ⟨reg, bb, rfl, hreg, hbb⟩

theorem Alike.takeFault (h : Alike P Q s t) (c : FaultCause) : Alike P Q (takeFault c s) (takeFault c t) := by
  obtain ⟨reg, bb, rfl, hreg, hbb⟩ := h
  exact ⟨reg, bb, rfl, hreg, hbb⟩

theorem Alike.checks (h : Alike P Q s t) : t.fault = s.fault ∧ t.configured = s.configured := by
  obtain ⟨reg, bb, rfl, -, -⟩ := h
  exact ⟨rfl, rfl⟩

theorem Matches.complete {rule : State → Except FaultCause State} (hrule : Matches P Q (rule s) (rule t))
    (h : Alike P Q s t) : Alike P Q (complete rule s) (complete rule t) := by
  unfold Machine.complete
  cases hs : rule s <;> cases ht : rule t <;> rw [hs, ht] at hrule <;> cases hrule
  case error.error c => exact h.takeFault c
  case ok.ok h' => exact h'

theorem Alike.runCommand (h : Alike P Q s t) {rule : State → Except FaultCause State} {s' t' : State}
    (hs : runCommand rule s = .next s') (ht : runCommand rule t = .next t') (hrule : Matches P Q (rule s) (rule t)) :
    Alike P Q s' t' := by
  obtain ⟨hfault, -⟩ := h.checks
  cases hs
  cases ht
  rw [hfault]
  split_ifs
  · exact h.respond _ _
  · exact hrule.complete h

theorem Alike.runEvent (h : Alike P Q s t) {rule : State → Except FaultCause State} {s' t' : State}
    (hs : runEvent rule s = .next s') (ht : runEvent rule t = .next t') (hrule : Matches P Q (rule s) (rule t)) :
    Alike P Q s' t' := by
  obtain ⟨hfault, hconf⟩ := h.checks
  cases hs
  cases ht
  rw [hfault, hconf]
  split_ifs
  · exact h.respond _ _
  · exact hrule.complete h
  · exact h.respond _ _

theorem Alike.refuseIllegal (h : Alike P Q s t) {s' t' : State} (hs : refuseIllegal s = .next s')
    (ht : refuseIllegal t = .next t') : Alike P Q s' t' := by
  obtain ⟨hfault, -⟩ := h.checks
  cases hs
  cases ht
  rw [hfault]
  split_ifs <;> exact h.respond _ _

/-! ### EDGE -/

theorem Alike.restartAt (hQ : EntriesUnseen Q) (h : Alike P Q s t) (p : Phase) :
    Alike P Q (restartAt p s) (restartAt p t) := by
  obtain ⟨reg, bb, rfl, hreg, hbb⟩ := h
  exact ⟨reg, bb, rfl, hreg, hQ.empty hbb⟩

theorem Alike.edgeAnswered (h : Alike P Q s t) : Alike P Q (edgeAnswered s) (edgeAnswered t) := by
  obtain ⟨reg, bb, rfl, hreg, hbb⟩ := h
  exact ⟨reg, bb, rfl, hreg, hbb⟩

/-- A write to registers that neither the slots nor the buffer's length are among. -/
theorem Alike.moveTo (h : Alike P Q s t) (p : Phase) (pre : BitVec 6) (ready : Bool) :
    Alike P Q { s with phase := p, preCnt := pre, frameReady := ready }
      { t with phase := p, preCnt := pre, frameReady := ready } := by
  obtain ⟨reg, bb, rfl, hreg, hbb⟩ := h
  exact ⟨reg, bb, rfl, hreg, hbb⟩

theorem Alike.preambleStep (hQ : EntriesUnseen Q) (h : Alike P Q s t) (dt : BitVec 16) :
    Alike P Q (preambleStep dt s) (preambleStep dt t) := by
  have hreject := h.restartAt hQ .idle
  have haccept := h.moveTo (milestonePhase (preCntSucc dt s.preCnt)) (preCntSucc dt s.preCnt) s.frameReady
  obtain ⟨reg, bb, rfl, -, -⟩ := h
  unfold Machine.preambleStep preambleMark
  split_ifs
  · exact hreject
  · exact haccept

theorem Alike.leadingPulseStep (hQ : EntriesUnseen Q) (h : Alike P Q s t) (dt : BitVec 16) :
    Alike P Q (leadingPulseStep dt s) (leadingPulseStep dt t) := by
  have hreject := h.restartAt hQ .idle
  have haccept := h.moveTo .leadingSpace s.preCnt s.frameReady
  obtain ⟨reg, bb, rfl, -, -⟩ := h
  unfold Machine.leadingPulseStep
  split_ifs
  · exact haccept
  · exact hreject

theorem Alike.leadingSpaceStep (hQ : EntriesUnseen Q) (h : Alike P Q s t) (dt : BitVec 16) :
    Alike P Q (leadingSpaceStep dt s) (leadingSpaceStep dt t) := by
  have hreject := h.restartAt hQ .idle
  have haccept := h.moveTo .preamble 0 s.frameReady
  obtain ⟨reg, bb, rfl, -, -⟩ := h
  unfold Machine.leadingSpaceStep
  split_ifs
  · exact haccept
  · exact hreject

theorem Alike.finalPulseStep (hQ : EntriesUnseen Q) (h : Alike P Q s t) (dt : BitVec 16) :
    Alike P Q (finalPulseStep dt s) (finalPulseStep dt t) := by
  have hreject := h.restartAt hQ .idle
  have haccept := h.moveTo .cooldown 0 true
  obtain ⟨reg, bb, rfl, -, -⟩ := h
  unfold Machine.finalPulseStep
  split_ifs
  · exact haccept
  · exact hreject

/-- R113, R118: both machines append the same entry at the same place, or neither does. -/
theorem Alike.fieldStep (hQ : EntriesUnseen Q) (h : Alike P Q s t) (dt : BitVec 16) (limit : Nat) (next : Phase) :
    Matches P Q (fieldStep dt limit next s) (fieldStep dt limit next t) := by
  have hreject := h.restartAt hQ .idle
  obtain ⟨reg, bb, rfl, hreg, hbb⟩ := h
  by_cases hc : classify s.tickUs dt (fieldMark s) = .outOfTolerance
  · rw [fieldStep_reject limit next hc, fieldStep_reject (s := { s with reg := reg, bb := bb }) limit next hc]
    exact .ok hreject
  · obtain hroom | hfull := Nat.lt_or_ge s.bbLen.toNat 36
    · rw [fieldStep_room limit next hc hroom, fieldStep_room (s := { s with reg := reg, bb := bb }) limit next hc hroom]
      refine .ok ⟨reg, _, rfl, hreg, ?_⟩
      have hlen : (s.bbLen + 1).toNat = s.bbLen.toNat + 1 := toNat_succ s.bbLen (by omega)
      simp only [hlen]
      exact hQ.write hbb hroom _
    · rw [fieldStep_full limit next hc hfull, fieldStep_full (s := { s with reg := reg, bb := bb }) limit next hc hfull]
      exact .error _

theorem Alike.phaseStep (hQ : EntriesUnseen Q) (h : Alike P Q s t) (dt : BitVec 16) :
    Matches P Q (phaseStep dt s) (phaseStep dt t) := by
  have hphase : t.phase = s.phase := by
    obtain ⟨reg, bb, rfl, -, -⟩ := h
    rfl
  unfold Machine.phaseStep
  rw [hphase]
  cases s.phase with
  | idle | cooldown => exact .ok (h.restartAt hQ .leadingPulse)
  | leadingPulse => exact .ok (h.leadingPulseStep hQ dt)
  | leadingSpace => exact .ok (h.leadingSpaceStep hQ dt)
  | preamble => exact .ok (h.preambleStep hQ dt)
  | systemCodeField | addressField | commandField => exact h.fieldStep hQ dt _ _
  | finalPulse => exact .ok (h.finalPulseStep hQ dt)

theorem Alike.edgeRule (hQ : EntriesUnseen Q) (h : Alike P Q s t) (dt : BitVec 16) :
    Matches P Q (edgeRule dt s) (edgeRule dt t) := by
  have hready : t.frameReady = s.frameReady := by
    obtain ⟨reg, bb, rfl, -, -⟩ := h
    rfl
  cases hr : s.frameReady with
  | true =>
    rw [edgeRule_waiting dt hr, edgeRule_waiting dt (hready.trans hr)]
    exact .ok h.edgeAnswered
  | false =>
    rw [edgeRule_clear dt hr, edgeRule_clear dt (hready.trans hr)]
    exact h.edgeAnswered.phaseStep hQ dt

/-! ### TICK and INIT -/

theorem Alike.timeout (hQ : EntriesUnseen Q) (h : Alike P Q s t) : Alike P Q (timeout s) (timeout t) := by
  obtain ⟨reg, bb, rfl, hreg, hbb⟩ := h
  unfold Machine.timeout
  split_ifs
  · exact ⟨reg, bb, rfl, hreg, hQ.empty hbb⟩
  · exact ⟨reg, bb, rfl, hreg, hbb⟩

theorem Alike.countIdle (hQ : EntriesUnseen Q) (h : Alike P Q s t) : Alike P Q (countIdle s) (countIdle t) := by
  have hcounted : Alike P Q { s with idleTicks := s.idleTicks + 1 } { t with idleTicks := s.idleTicks + 1 } := by
    obtain ⟨reg, bb, rfl, hreg, hbb⟩ := h
    exact ⟨reg, bb, rfl, hreg, hbb⟩
  have hidle : t.idleTicks = s.idleTicks := by
    obtain ⟨reg, bb, rfl, -, -⟩ := h
    rfl
  unfold Machine.countIdle
  rw [hidle]
  split_ifs
  · exact hcounted.timeout hQ
  · exact hcounted
  · exact h

theorem Alike.countClear (h : Alike P Q s t) : Alike P Q (countClear s) (countClear t) := by
  obtain ⟨reg, bb, rfl, hreg, hbb⟩ := h
  simp only [countClear_eq]
  exact ⟨reg, bb, rfl, hreg, hbb⟩

theorem Alike.tickRule (hQ : EntriesUnseen Q) (h : Alike P Q s t) : Alike P Q (tickRule s) (tickRule t) :=
  ((h.respond .ok 0).countIdle hQ).countClear

theorem Alike.initRule (hQ : EntriesUnseen Q) (h : Alike P Q s t) (ivl : BitVec 24) :
    Alike P Q (initRule ivl s) (initRule ivl t) := by
  obtain ⟨reg, bb, rfl, hreg, -⟩ := h
  exact ⟨reg, bbZero, rfl, hreg, hQ.zero⟩

/-! ### POLL -/

theorem Alike.clearService (hQ : EntriesUnseen Q) (h : Alike P Q s t) :
    Alike P Q (clearService s) (clearService t) := by
  obtain ⟨reg, bb, rfl, hreg, hbb⟩ := h
  unfold Machine.clearService clearServiceDue
  split_ifs
  · exact ⟨reg, bbZero, rfl, hreg, hQ.zero⟩
  · exact ⟨reg, bb, rfl, hreg, hbb⟩

theorem Alike.reportLevel (hP : SlotsUnseen P) (h : Alike P Q s t) : Alike P Q (reportLevel s) (reportLevel t) := by
  have h0 := h.respond .ok (boolData false)
  have h1 := h.respond .ok (boolData s.avail)
  obtain ⟨reg, bb, rfl, hreg, -⟩ := h
  unfold Machine.reportLevel
  simp only [hP.contains hreg]
  split_ifs
  · exact h0
  · exact h1

/-- R163: the decoder reads a whole frame, which the two machines share. -/
theorem Alike.takeFrame (hP : SlotsUnseen P) (hQ : EntriesUnseen Q) (h : Alike P Q s t) (hlen : s.bbLen.toNat = 36) :
    Alike P Q (takeFrame s) (takeFrame t) := by
  obtain ⟨reg, bb, rfl, hreg, hbb⟩ := h
  obtain rfl : s.bb = bb := hQ.whole (hlen ▸ hbb)
  unfold Machine.takeFrame repeatSuppressed
  simp only [hP.contains hreg]
  split_ifs
  · exact ⟨reg, s.bb, rfl, hreg, hQ.empty hbb⟩
  · exact ⟨reg, s.bb, rfl, hreg, hQ.empty hbb⟩

theorem Alike.pollFrame (hP : SlotsUnseen P) (hQ : EntriesUnseen Q) (h : Alike P Q s t) :
    Matches P Q (pollFrame s) (pollFrame t) := by
  have hregs : t.frameReady = s.frameReady ∧ t.bbLen = s.bbLen := by
    obtain ⟨reg, bb, rfl, -, -⟩ := h
    exact ⟨rfl, rfl⟩
  obtain ⟨hready, hlen⟩ := hregs
  unfold Machine.pollFrame
  rw [hready, hlen]
  split_ifs with hr hfull
  · exact .ok (h.takeFrame hP hQ hfull)
  · exact .error _
  · exact .ok (h.reportLevel hP)

/-! ### The registry commands and READ_STATUS -/

theorem Alike.disableRule (hP : SlotsUnseen P) (h : Alike P Q s t) (sys cmd : BitVec 8) :
    Alike P Q (disableRule sys cmd s) (disableRule sys cmd t) := by
  have hanswer := h.respond
  obtain ⟨reg, bb, rfl, hreg, hbb⟩ := h
  unfold Machine.disableRule
  simp only [hP.contains hreg]
  split_ifs with hheld
  · exact hanswer _ _
  · have habsent := mt (containsPair_iff_mem_heldKeys s.reg sys cmd).mpr hheld
    have hfill := hP.fill hreg (pairKey sys cmd) habsent
    generalize fillLowestFree (pairKey sys cmd) s.reg = filled at hfill ⊢
    generalize fillLowestFree (pairKey sys cmd) reg = filled' at hfill ⊢
    cases hfill with
    | some hfilled => exact ⟨_, bb, rfl, hfilled, hbb⟩
    | none => exact hanswer _ _

theorem Alike.enableRule (hP : SlotsUnseen P) (h : Alike P Q s t) (sys cmd : BitVec 8) :
    Alike P Q (enableRule sys cmd s) (enableRule sys cmd t) := by
  obtain ⟨reg, bb, rfl, hreg, hbb⟩ := h
  unfold Machine.enableRule
  simp only [hP.contains hreg]
  split_ifs
  · exact ⟨_, bb, rfl, hP.drop hreg _, hbb⟩
  · exact ⟨reg, bb, rfl, hreg, hbb⟩

theorem Alike.containsPair (hP : SlotsUnseen P) (h : Alike P Q s t) (sys cmd : BitVec 8) :
    containsPair t.reg sys cmd = containsPair s.reg sys cmd := by
  obtain ⟨reg, bb, rfl, hreg, -⟩ := h
  exact hP.contains hreg sys cmd

theorem Alike.readData (h : Alike P Q s t) : frameData t = frameData s ∧ statusData t = statusData s := by
  obtain ⟨reg, bb, rfl, -, -⟩ := h
  exact ⟨rfl, rfl⟩

/-! ### Every instruction -/

/-- R24, R190: two machines alike stay alike under every instruction. -/
theorem Alike.exec (hP : SlotsUnseen P) (hQ : EntriesUnseen Q) (h : Alike P Q s t) (i : Instr) {s' t' : State}
    (hs : exec i s = .next s') (ht : exec i t = .next t') : Alike P Q s' t' := by
  obtain ⟨hframe, hstatus⟩ := h.readData
  cases i with
  | nop => exact h.runCommand hs ht (.ok (h.respond _ _))
  | init ivl => exact h.runCommand hs ht (.ok (h.initRule hQ ivl))
  | edge dt => exact h.runEvent hs ht (h.edgeRule hQ dt)
  | tick => exact h.runEvent hs ht (.ok (h.tickRule hQ))
  | poll => exact h.runCommand hs ht ((h.clearService hQ).pollFrame hP hQ)
  | disable sys cmd => exact h.runCommand hs ht (.ok (h.disableRule hP sys cmd))
  | enable sys cmd => exact h.runCommand hs ht (.ok (h.enableRule hP sys cmd))
  | contains sys cmd =>
    refine h.runCommand hs ht (.ok ?_)
    rw [h.containsPair hP]
    exact h.respond _ _
  | readFrame =>
    refine h.runCommand hs ht (.ok ?_)
    rw [hframe]
    exact h.respond _ _
  | readStatus =>
    cases hs
    cases ht
    rw [hstatus]
    exact h.respond _ _
  | reservedAB op rest | reservedCF op rest => exact h.refuseIllegal hs ht

end

/-! ## The slots as a set (R190) -/

/-- Two registries of one depth that hold the same set of keys, each key once. -/
structure SameKeys (a b : List Slot) : Prop where
  length_eq : b.length = a.length
  nodup_left : (heldKeys a).Nodup
  nodup_right : (heldKeys b).Nodup
  mem_iff : ∀ k, k ∈ heldKeys a ↔ k ∈ heldKeys b

/-- R195: no slot is free exactly when the registry holds as many keys as it has slots. -/
theorem fillLowestFree_eq_none_iff (key : BitVec 16) (reg : List Slot) :
    fillLowestFree key reg = none ↔ (heldKeys reg).length = reg.length := by
  rw [heldKeys, List.length_map, List.length_filter_eq_length_iff]
  obtain ⟨hnone, hfull⟩ | ⟨pre, sl, post, rfl, -, hfree, hsome⟩ := fillLowestFree_cases key reg
  · exact ⟨fun _ => hfull, fun _ => hnone⟩
  · refine ⟨fun h => absurd (hsome.symm.trans h) (by simp), fun h => ?_⟩
    rw [h sl (by simp)] at hfree
    cases hfree

theorem length_fillLowestFree {key : BitVec 16} {reg reg' : List Slot} (h : fillLowestFree key reg = some reg') :
    reg'.length = reg.length := by
  obtain ⟨hnone, -⟩ | ⟨pre, sl, post, rfl, -, -, hsome⟩ := fillLowestFree_cases key reg
  · cases hnone.symm.trans h
  · obtain rfl := Option.some.inj (hsome.symm.trans h)
    simp

/-- R193: with distinct keys, dropping a key removes it from the set and no other. -/
theorem mem_heldKeys_dropKey {reg : List Slot} (h : (heldKeys reg).Nodup) (key k : BitVec 16) :
    k ∈ heldKeys (dropKey key reg) ↔ k ≠ key ∧ k ∈ heldKeys reg := by
  have hgone := not_mem_heldKeys_dropKey key h
  refine ⟨fun hk => ⟨fun e => hgone (e ▸ hk), (heldKeys_dropKey_sublist key reg).subset hk⟩, fun ⟨hne, hk⟩ => ?_⟩
  obtain ⟨hsame, -⟩ | ⟨pre, post, rfl, -, hdrop⟩ := dropKey_cases key reg
  · rwa [hsame]
  · rw [hdrop, heldKeys_append, heldKeys_cons_free _ _ rfl]
    simpa [heldKeys_append, hne] using hk

theorem SameKeys.held_length_eq {a b : List Slot} (h : SameKeys a b) : (heldKeys a).length = (heldKeys b).length :=
  ((List.perm_ext_iff_of_nodup h.nodup_left h.nodup_right).mpr h.mem_iff).length_eq

theorem SameKeys.fill {a b : List Slot} (h : SameKeys a b) (key : BitVec 16) (habsent : key ∉ heldKeys a) :
    Option.Rel SameKeys (fillLowestFree key a) (fillLowestFree key b) := by
  have hfull : fillLowestFree key a = none ↔ fillLowestFree key b = none := by
    rw [fillLowestFree_eq_none_iff, fillLowestFree_eq_none_iff, h.held_length_eq, h.length_eq]
  cases ha : fillLowestFree key a with
  | none =>
    rw [hfull.mp ha]
    exact .none
  | some a' =>
    obtain ⟨b', hb⟩ := Option.ne_none_iff_exists'.mp (mt hfull.mpr (by simp [ha]))
    rw [hb]
    refine .some ⟨?_, ?_, ?_, fun k => ?_⟩
    · rw [length_fillLowestFree ha, length_fillLowestFree hb, h.length_eq]
    · exact nodup_heldKeys_fillLowestFree key a a' h.nodup_left habsent ha
    · exact nodup_heldKeys_fillLowestFree key b b' h.nodup_right (mt (h.mem_iff key).mpr habsent) hb
    · rw [mem_heldKeys_fillLowestFree ha, mem_heldKeys_fillLowestFree hb, h.mem_iff]

theorem SameKeys.drop {a b : List Slot} (h : SameKeys a b) (key : BitVec 16) :
    SameKeys (dropKey key a) (dropKey key b) where
  length_eq := by rw [length_dropKey, length_dropKey, h.length_eq]
  nodup_left := h.nodup_left.sublist (heldKeys_dropKey_sublist key a)
  nodup_right := h.nodup_right.sublist (heldKeys_dropKey_sublist key b)
  mem_iff k := by rw [mem_heldKeys_dropKey h.nodup_left, mem_heldKeys_dropKey h.nodup_right, h.mem_iff]

theorem slotsUnseen_sameKeys : SlotsUnseen SameKeys where
  contains h sys cmd := by
    rw [Bool.eq_iff_iff, containsPair_iff_mem_heldKeys, containsPair_iff_mem_heldKeys, h.mem_iff]
  fill h key habsent := h.fill key habsent
  drop h key := h.drop key

theorem entriesUnseen_eq : EntriesUnseen fun _ a b => a = b where
  empty h := h
  write h _ _ := by rw [h]
  zero := rfl
  whole h := h

/-- Settles O52: registries related by `SameKeys`, buffers equal. -/
theorem registryIsObservedOnlyAsASet : Obligations.RegistryIsObservedOnlyAsASet := by
  unfold Obligations.RegistryIsObservedOnlyAsASet
  intro i s t s' t' hst hlen hs ht hmem hs' ht'
  have halike : Alike SameKeys (fun _ a b => a = b) s t := by
    rw [hst]
    exact ⟨t.reg, s.bb, rfl, ⟨hlen, hs, ht, hmem⟩, rfl⟩
  obtain ⟨reg, bb, rfl, hreg, rfl⟩ := halike.exec slotsUnseen_sameKeys entriesUnseen_eq i hs' ht'
  exact ⟨rfl, hreg.length_eq, hreg.nodup_left, hreg.nodup_right, hreg.mem_iff⟩

/-! ## The buffer below `bb_len` (R24) -/

/-- Two buffers with the same entries below `n`. -/
def SameBelow (n : Nat) (a b : Vector Bool 36) : Prop := ∀ j < n, bbRead b j = bbRead a j

theorem SameBelow.write {n : Nat} {a b : Vector Bool 36} (h : SameBelow n a b) (hn : n < 36) (v : Bool) :
    SameBelow (n + 1) (bbWrite a n v) (bbWrite b n v) := by
  intro j hj
  rw [bbRead_bbWrite _ _ _ _ hn, bbRead_bbWrite _ _ _ _ hn]
  split_ifs with hnew
  · rfl
  · exact h j (by omega)

theorem entriesUnseen_sameBelow : EntriesUnseen SameBelow where
  empty _ := fun j hj => absurd hj (Nat.not_lt_zero j)
  write h hn v := h.write hn v
  zero := fun _ _ => rfl
  whole h := bb_ext _ _ fun j hj => (h j hj).symm

theorem slotsUnseen_eq : SlotsUnseen (· = ·) where
  contains h _ _ := by rw [h]
  fill {a b} h key _ := by
    rw [h]
    cases fillLowestFree key b with
    | none => exact .none
    | some reg => exact .some rfl
  drop h _ := by rw [h]

/-- Settles O60: registries equal, buffers related by `SameBelow`. -/
theorem staleBufferEntriesAreNeverObserved : Obligations.StaleBufferEntriesAreNeverObserved := by
  unfold Obligations.StaleBufferEntriesAreNeverObserved
  intro i s t s' t' hst hbb hs' ht'
  have halike : Alike (· = ·) SameBelow s t := by
    rw [hst]
    exact ⟨s.reg, t.bb, rfl, rfl, hbb⟩
  obtain ⟨reg, bb, rfl, rfl, hbb'⟩ := halike.exec slotsUnseen_eq entriesUnseen_sameBelow i hs' ht'
  exact ⟨rfl, hbb'⟩

end Sys2Proof.Machine

/-! # What each command writes (spec/10_state.md R20, R39)

The register table read by commands: `WritesOnly` lists for each instruction the registers it may write, and every other
register is as before. A refusal writes the response alone, so only the rules are to be looked at. -/

namespace Sys2Proof.Machine

/-! ## The register table by commands (R20) -/

/-- `t` differs from `s` at most in the registers that the rows of R20 let the command write, and in the response. -/
def WritesOnly (i : Instr) (s t : State) : Prop :=
  match i with
  | .init _ =>
    t = { s with
      phase := t.phase, preCnt := t.preCnt, bbLen := t.bbLen, bb := t.bb, frameReady := t.frameReady
      idleTicks := t.idleTicks, clrTicks := t.clrTicks, clearReq := t.clearReq, avail := t.avail, resSys := t.resSys
      resAddr := t.resAddr, resCmd := t.resCmd, configured := t.configured, cfgClrTicks := t.cfgClrTicks, resp := t.resp }
  | .edge _ =>
    t = { s with
      phase := t.phase, preCnt := t.preCnt, bbLen := t.bbLen, bb := t.bb, frameReady := t.frameReady
      idleTicks := t.idleTicks, clrTicks := t.clrTicks, fault := t.fault, faultCode := t.faultCode, resp := t.resp }
  | .tick =>
    t = { s with
      phase := t.phase, preCnt := t.preCnt, bbLen := t.bbLen, idleTicks := t.idleTicks, clrTicks := t.clrTicks
      clearReq := t.clearReq, avail := t.avail, resp := t.resp }
  | .poll =>
    t = { s with
      bbLen := t.bbLen, bb := t.bb, frameReady := t.frameReady, clearReq := t.clearReq, avail := t.avail
      resSys := t.resSys, resAddr := t.resAddr, resCmd := t.resCmd, fault := t.fault, faultCode := t.faultCode
      resp := t.resp }
  | .disable _ _ => t = { s with reg := t.reg, resp := t.resp } ∧ t.reg.length = s.reg.length
  | .enable _ _ =>
    t = { s with reg := t.reg, resp := t.resp } ∧ t.reg.map (fun sl => sl.key) = s.reg.map (fun sl => sl.key)
  | _ => t = { s with resp := t.resp }

theorem writesOnly_refuse (i : Instr) (st : Status) (s : State) : WritesOnly i s (refuse st s) := by
  cases i with
  | disable sys cmd | enable sys cmd => exact ⟨rfl, rfl⟩
  | _ => rfl

/-- A command whose rule has no fault of its own is refused or runs its rule. -/
theorem WritesOnly.of_runCommand {i : Instr} {f : State → State} {s t : State} (hf : WritesOnly i s (f s))
    (ht : runCommand (fun s => .ok (f s)) s = .next t) : WritesOnly i s t := by
  cases ht
  split_ifs
  · exact writesOnly_refuse i .faulted s
  · exact hf

theorem WritesOnly.of_runEvent {i : Instr} {f : State → State} {s t : State} (hf : WritesOnly i s (f s))
    (ht : runEvent (fun s => .ok (f s)) s = .next t) : WritesOnly i s t := by
  cases ht
  split_ifs
  · exact writesOnly_refuse i .faulted s
  · exact hf
  · exact writesOnly_refuse i .notConfigured s

/-! ## The rules of the commands that write more than the response -/

theorem edgeRule_writesOnly {dt : BitVec 16} {s t : State} (ht : edgeRule dt s = .ok t) : WritesOnly (.edge dt) s t := by
  cases hr : s.frameReady with
  | true =>
    rw [edgeRule_waiting dt hr] at ht
    cases ht
    rfl
  | false =>
    rw [edgeRule_clear dt hr] at ht
    have hcapture := phaseStep_captureOnly ht
    rw [CaptureOnly] at hcapture
    change _ = _
    rw [hcapture]
    rfl

theorem exec_edge_writesOnly {dt : BitVec 16} {s t : State} (ht : exec (.edge dt) s = .next t) :
    WritesOnly (.edge dt) s t := by
  obtain ⟨st, rfl⟩ | hok | ⟨c, rfl⟩ := endsAs_of_runEvent ht
  · exact writesOnly_refuse _ st s
  · exact edgeRule_writesOnly hok
  · rfl

theorem tickRule_writesOnly (s : State) : WritesOnly .tick s (tickRule s) := by
  rw [tickRule, countClear_eq, countIdle_eq]
  rfl

theorem takeFrame_writesOnly (s : State) : WritesOnly .poll s (takeFrame s) := by
  unfold takeFrame
  split_ifs <;> rfl

theorem pollRule_writesOnly {s t : State} (ht : pollRule s = .ok t) : WritesOnly .poll s t := by
  cases hr : s.frameReady with
  | true =>
    by_cases hlen : s.bbLen = 36
    · rw [pollRule_waiting hr hlen] at ht
      cases ht
      exact takeFrame_writesOnly s
    · rw [pollRule_malformed hr hlen] at ht
      cases ht
  | false =>
    rw [pollRule_empty hr] at ht
    cases ht
    rw [reportLevel_eq, clearService_eq hr]
    rfl

theorem exec_poll_writesOnly {s t : State} (ht : exec .poll s = .next t) : WritesOnly .poll s t := by
  obtain ⟨st, rfl⟩ | hok | ⟨c, rfl⟩ := endsAs_of_runCommand ht
  · exact writesOnly_refuse _ st s
  · exact pollRule_writesOnly hok
  · rfl

theorem disableRule_writesOnly (sys cmd : BitVec 8) (s : State) :
    WritesOnly (.disable sys cmd) s (disableRule sys cmd s) := by
  unfold disableRule
  split_ifs
  · exact ⟨rfl, rfl⟩
  · cases hfill : fillLowestFree (pairKey sys cmd) s.reg with
    | none => exact ⟨rfl, rfl⟩
    | some reg => exact ⟨rfl, length_fillLowestFree hfill⟩

/-- R193: the key of a freed slot is left stale. -/
theorem map_key_dropKey (key : BitVec 16) (reg : List Slot) :
    (dropKey key reg).map (fun sl => sl.key) = reg.map (fun sl => sl.key) := by
  obtain ⟨hsame, -⟩ | ⟨pre, post, rfl, -, hdrop⟩ := dropKey_cases key reg
  · rw [hsame]
  · simp [hdrop]

theorem enableRule_writesOnly (sys cmd : BitVec 8) (s : State) :
    WritesOnly (.enable sys cmd) s (enableRule sys cmd s) := by
  unfold enableRule
  split_ifs
  · exact ⟨rfl, map_key_dropKey _ _⟩
  · exact ⟨rfl, rfl⟩

/-- R20, R39: the register table holds of every instruction. -/
theorem exec_writesOnly {i : Instr} {s t : State} (ht : exec i s = .next t) : WritesOnly i s t := by
  cases i with
  | nop => exact .of_runCommand (f := respond .ok 0) rfl ht
  | init ivl => exact .of_runCommand (f := initRule ivl) rfl ht
  | edge dt => exact exec_edge_writesOnly ht
  | tick => exact .of_runEvent (tickRule_writesOnly s) ht
  | poll => exact exec_poll_writesOnly ht
  | disable sys cmd => exact .of_runCommand (disableRule_writesOnly sys cmd s) ht
  | enable sys cmd => exact .of_runCommand (enableRule_writesOnly sys cmd s) ht
  | contains sys cmd =>
    exact .of_runCommand (f := fun s => respond .ok (boolData (containsPair s.reg sys cmd)) s) rfl ht
  | readFrame => exact .of_runCommand (f := fun s => respond .ok (frameData s) s) rfl ht
  | readStatus =>
    cases ht
    rfl
  | reservedAB op rest | reservedCF op rest =>
    obtain ⟨st, rfl⟩ := refuseIllegal_next ht
    exact writesOnly_refuse _ st s

/-- Settles O58: a register outside the command's list is as before, and a register in it names the command. -/
theorem onlyListedCommandsWriteEachRegister : Obligations.OnlyListedCommandsWriteEachRegister := by
  unfold Obligations.OnlyListedCommandsWriteEachRegister
  intro i s t ht
  have hwrites := exec_writesOnly ht
  cases i with
  | disable sys cmd =>
    obtain ⟨hwrites, -⟩ := hwrites
    rw [hwrites]
    simp
  | enable sys cmd =>
    obtain ⟨hwrites, hkeys⟩ := hwrites
    refine ⟨?_, ?_, ?_, ?_, ?_, ?_, ?_, ?_, ?_, ?_, ?_, fun h => absurd hkeys h, ?_⟩
    all_goals
      rw [hwrites]
      simp
  | _ =>
    rw [hwrites]
    simp

/-! ## The build (R7, R37) -/

theorem exec_build {i : Instr} {s t : State} (ht : exec i s = .next t) : t.build = s.build := by
  have hwrites := exec_writesOnly ht
  cases i with
  | disable sys cmd =>
    obtain ⟨hwrites, hlen⟩ := hwrites
    rw [State.build, State.build, hlen, hwrites]
  | enable sys cmd =>
    obtain ⟨hwrites, hkeys⟩ := hwrites
    have hlen : t.reg.length = s.reg.length := by simpa using congrArg List.length hkeys
    rw [State.build, State.build, hlen, hwrites]
  | _ =>
    rw [hwrites]
    rfl

theorem runWord_build {w : Word} {s t : State} (ht : runWord w s = .next t) : t.build = s.build := by
  unfold runWord at ht
  cases hw : decode w with
  | command i =>
    rw [hw] at ht
    exact exec_build ht
  | illegal why =>
    rw [hw] at ht
    obtain ⟨st, rfl⟩ := refuseIllegal_next ht
    rfl

/-- Settles O59. -/
theorem stepKeepsTheBuild : Obligations.StepKeepsTheBuild := by
  unfold Obligations.StepKeepsTheBuild
  intro s t ht
  cases hin : s.inbox with
  | nil =>
    rw [step_nil s hin] at ht
    cases ht
    rfl
  | cons x rest =>
    cases x with
    | powerOnReset =>
      rw [step_powerOnReset s rest hin] at ht
      cases ht
      exact powerOn_build _
    | command w =>
      rw [step_word s w rest hin] at ht
      exact runWord_build (s := { s with inbox := rest }) ht

/-! ## The buffer under EDGE (R51, R118) -/

/-- R118: a field phase writes the entry at `bb_len` or none. -/
theorem fieldStep_bbRead {dt : BitVec 16} {limit : Nat} {next : Phase} {s t : State}
    (ht : fieldStep dt limit next s = .ok t) {j : Nat} (hj : j ≠ s.bbLen.toNat) : bbRead t.bb j = bbRead s.bb j := by
  by_cases hc : classify s.tickUs dt (fieldMark s) = .outOfTolerance
  · rw [fieldStep_reject limit next hc] at ht
    cases ht
    rfl
  · obtain hroom | hfull := Nat.lt_or_ge s.bbLen.toNat 36
    · rw [fieldStep_room limit next hc hroom] at ht
      cases ht
      exact bbRead_bbWrite_other _ _ _ _ hj
    · rw [fieldStep_full limit next hc hfull] at ht
      cases ht

/-- Outside the field phases no transition writes the buffer. -/
theorem phaseStep_bb {dt : BitVec 16} {s t : State} (ht : phaseStep dt s = .ok t)
    (hp : s.phase ∉ [Phase.systemCodeField, Phase.addressField, Phase.commandField]) : t.bb = s.bb := by
  unfold phaseStep at ht
  cases hphase : s.phase <;> rw [hphase] at ht hp
  case systemCodeField | addressField | commandField => simp at hp
  case idle | cooldown =>
    cases ht
    rfl
  case leadingPulse | leadingSpace | preamble | finalPulse =>
    cases ht
    simp only [leadingPulseStep, leadingSpaceStep, preambleStep, finalPulseStep]
    split_ifs <;> rfl

theorem phaseStep_bbRead {dt : BitVec 16} {s t : State} (ht : phaseStep dt s = .ok t) {j : Nat}
    (hj : j ≠ s.bbLen.toNat ∨ s.phase ∉ [Phase.systemCodeField, Phase.addressField, Phase.commandField]) :
    bbRead t.bb j = bbRead s.bb j := by
  by_cases hp : s.phase ∈ [Phase.systemCodeField, Phase.addressField, Phase.commandField]
  · have hne := hj.resolve_right (not_not.mpr hp)
    unfold phaseStep at ht
    simp only [List.mem_cons, List.not_mem_nil, or_false] at hp
    obtain hp | hp | hp := hp <;> rw [hp] at ht <;> exact fieldStep_bbRead ht hne
  · rw [phaseStep_bb ht hp]

theorem exec_edge_bbRead {dt : BitVec 16} {s t : State} (ht : exec (.edge dt) s = .next t) {j : Nat}
    (hj : j ≠ s.bbLen.toNat ∨ s.phase ∉ [Phase.systemCodeField, Phase.addressField, Phase.commandField]) :
    bbRead t.bb j = bbRead s.bb j := by
  obtain ⟨st, rfl⟩ | hok | ⟨c, rfl⟩ := endsAs_of_runEvent ht
  · rfl
  · cases hr : s.frameReady with
    | true =>
      rw [edgeRule_waiting dt hr] at hok
      cases hok
      rfl
    | false =>
      rw [edgeRule_clear dt hr] at hok
      exact phaseStep_bbRead hok hj
  · rfl

/-- Settles O32: the buffer by the transitions, the other registers by the table. -/
theorem edgeFrame : Obligations.EdgeFrame := by
  unfold Obligations.EdgeFrame
  intro dt s t ht
  refine ⟨fun j _ hj => exec_edge_bbRead ht hj, ?_⟩
  have hwrites := exec_writesOnly ht
  rw [hwrites]
  exact ⟨rfl, rfl, rfl, rfl, rfl, rfl, rfl, rfl, rfl, rfl⟩

/-! ## The preamble counter (R112) -/

/-- R112: an accepted half-interval, while the counter can count it. -/
theorem phaseStep_preamble_accept {dt : BitVec 16} {s : State} (hp : s.phase = .preamble) (hlt : s.preCnt.toNat < 63)
    (hc : classify s.tickUs dt (preambleMark s) ≠ .outOfTolerance) :
    phaseStep dt s = .ok { s with preCnt := s.preCnt + 1, phase := milestonePhase (s.preCnt + 1) } := by
  simp only [phaseStep, hp]
  rw [preambleStep, if_neg hc, preCntSucc_of_lt dt s.preCnt hlt]

theorem phaseStep_preamble_reject {dt : BitVec 16} {s : State} (hp : s.phase = .preamble)
    (hc : classify s.tickUs dt (preambleMark s) = .outOfTolerance) : phaseStep dt s = .ok (rejectReset s) := by
  simp only [phaseStep, hp]
  rw [preambleStep, if_pos hc]

/-- Settles O29: accepted or rejected by the classifier. -/
theorem preambleCountsHalfIntervals : Obligations.PreambleCountsHalfIntervals := by
  unfold Obligations.PreambleCountsHalfIntervals
  intro dt s ha hr hp hlt
  have hclass := classify_outOfTolerance_iff s.tickUs dt s.preCnt.toNat
  have hsucc : (s.preCnt + 1).toNat = s.preCnt.toNat + 1 := toNat_succ s.preCnt (by omega)
  by_cases haccept : (164 ≤ dt.toNat * s.tickUs ∧ dt.toNat * s.tickUs ≤ 676) ∨
      (s.preCnt.toNat % 2 = 1 ∧ 1014 ≤ dt.toNat * s.tickUs ∧ dt.toNat * s.tickUs ≤ 1526)
  · rw [if_pos haccept, ← hsucc]
    exact exec_edge_next ha hr
      (phaseStep_preamble_accept (s := edgeAnswered s) hp hlt fun hc => hclass.mp hc haccept)
  · rw [if_neg haccept]
    exact exec_edge_next ha hr (phaseStep_preamble_reject (s := edgeAnswered s) hp (hclass.mpr haccept))

end Sys2Proof.Machine

/-! # Runs of TICK and POLL (spec/41_watchdog.md, spec/42_poll_decode.md, spec/70_reset_and_hazards.md)

A run of TICKs is `tickRule` iterated, the presented words apart (`run_ticks`), so what n silent TICKs do is an induction over
the rule alone. A TICK that does not reach the timeout leaves what has been captured (`SameCapture`). -/

namespace Sys2Proof.Machine

/-! ## One TICK -/

theorem tickRule_eq (s : State) :
    tickRule s =
      { s with
        idleTicks := if s.idleTicks.toNat < 3 then s.idleTicks + 1 else s.idleTicks
        phase := if s.idleTicks.toNat = 2 then .idle else s.phase
        bbLen := if s.idleTicks.toNat = 2 ∧ s.phase ≠ .idle ∧ s.phase ≠ .cooldown then 0 else s.bbLen
        preCnt := if s.idleTicks.toNat = 2 ∧ s.phase ≠ .idle ∧ s.phase ≠ .cooldown then 0 else s.preCnt
        avail := if s.idleTicks.toNat = 2 then false else s.avail
        clrTicks := if s.cfgClrTicks.toNat ≤ s.clrTicks.toNat + 1 then 0 else s.clrTicks + 1
        clearReq := if s.cfgClrTicks.toNat ≤ s.clrTicks.toNat + 1 then true else s.clearReq
        resp := some 0#32 } := by
  rw [tickRule, respond_ok_zero, countIdle_eq, countClear_eq]

theorem tickRule_active {s : State} (ha : s.Active) : (tickRule s).Active := by
  rw [tickRule_eq]
  exact ha

/-- What is captured and reported is the same in both states. -/
def SameCapture (s t : State) : Prop :=
  t.phase = s.phase ∧ t.bbLen = s.bbLen ∧ t.preCnt = s.preCnt ∧ t.bb = s.bb ∧ t.avail = s.avail ∧
    t.frameReady = s.frameReady

theorem SameCapture.trans {s t u : State} (h : SameCapture s t) (h' : SameCapture t u) : SameCapture s u := by
  obtain ⟨hphase, hlen, hpre, hbb, havail, hready⟩ := h
  obtain ⟨hphase', hlen', hpre', hbb', havail', hready'⟩ := h'
  exact ⟨hphase'.trans hphase, hlen'.trans hlen, hpre'.trans hpre, hbb'.trans hbb, havail'.trans havail,
    hready'.trans hready⟩

/-- R142: only the TICK that brings `idle_ticks` to 3 times out. -/
theorem tickRule_sameCapture {s : State} (h : s.idleTicks.toNat ≠ 2) : SameCapture s (tickRule s) := by
  rw [tickRule_eq]
  simp [SameCapture, h]

theorem tickRule_idleTicks (s : State) :
    (tickRule s).idleTicks = if s.idleTicks.toNat < 3 then s.idleTicks + 1 else s.idleTicks := by
  rw [tickRule_eq]

/-- R143: the timeout of a capture. -/
theorem tickRule_timeout {s : State} (h : s.idleTicks = 2) (hp : s.phase.capturing = true) :
    (tickRule s).phase = .idle ∧ (tickRule s).bbLen = 0 ∧ (tickRule s).preCnt = 0 ∧ (tickRule s).bb = s.bb ∧
      (tickRule s).avail = false ∧ (tickRule s).idleTicks = 3 ∧ (tickRule s).frameReady = s.frameReady := by
  rw [tickRule_eq, h]
  simp [(capturing_iff s.phase).mp hp]

/-! ## Runs of TICKs -/

/-- The state with these words to come. -/
def State.withInbox (s : State) (inbox : List Stimulus) : State := { s with inbox := inbox }

theorem step_tick {s : State} {is : List Instr} {rest : List Stimulus} (ha : s.Active)
    (hin : s.inbox = presented (.tick :: is) ++ rest) :
    step s = .next (tickRule (s.withInbox (presented is ++ rest))) :=
  (step_presented hin (by decide)).trans (exec_tick_active ha)

/-- TICK does not read the words to come. -/
theorem tickRule_withInbox (s : State) (inbox : List Stimulus) :
    tickRule (s.withInbox inbox) = (tickRule s).withInbox inbox := by
  simp only [tickRule_eq, State.withInbox]

theorem run_ticks (n : Nat) {s : State} {rest : List Stimulus} (ha : s.Active)
    (hin : s.inbox = presented (List.replicate n .tick) ++ rest) :
    Host.Core.run Sys2Proof.core n s = .next (tickRule^[n] (s.withInbox rest)) := by
  induction n generalizing s with
  | zero =>
    obtain rfl : s.inbox = rest := hin
    rfl
  | succ n ih =>
    have hrun := ih (s := (tickRule s).withInbox (presented (List.replicate n .tick) ++ rest)) (tickRule_active ha) rfl
    rw [run_succ n s _ (step_tick ha hin), tickRule_withInbox, hrun, Function.iterate_succ_apply, tickRule_withInbox]
    rfl

theorem iterate_tickRule_inbox (n : Nat) (s : State) : (tickRule^[n] s).inbox = s.inbox := by
  induction n generalizing s with
  | zero => rfl
  | succ n ih => rw [Function.iterate_succ_apply, ih, tickRule_eq]

/-- Settles O38: the third TICK finds `idle_ticks` at 2. -/
theorem thirdSilentTickAbortsTheCapture : Obligations.ThirdSilentTickAbortsTheCapture := by
  unfold Obligations.ThirdSilentTickAbortsTheCapture
  intro s rest ha hidle hp hin
  have htwo : ∀ u : State, u.idleTicks = 0 → SameCapture u (tickRule^[2] u) ∧ (tickRule^[2] u).idleTicks = 2 := by
    intro u hu
    have hone : (tickRule u).idleTicks = 1 := by rw [tickRule_idleTicks, hu]; rfl
    refine ⟨(tickRule_sameCapture (by simp [hu])).trans (tickRule_sameCapture (by simp [hone])), ?_⟩
    exact (tickRule_idleTicks (tickRule u)).trans (by rw [hone]; rfl)
  constructor
  · obtain ⟨⟨hphase, hlen, hpre, hbb, havail, -⟩, -⟩ := htwo (s.withInbox (presented [.tick] ++ rest)) hidle
    exact ⟨_, run_ticks 2 ha hin, hphase, hlen, hpre, hbb, havail⟩
  · obtain ⟨⟨hphase, -, -, hbb, -, hready⟩, htwoTicks⟩ := htwo (s.withInbox rest) hidle
    obtain ⟨hphase', hlen', hpre', hbb', havail', hidle', hready'⟩ :=
      tickRule_timeout htwoTicks (by rw [hphase]; exact hp)
    exact ⟨_, (run_ticks 3 ha hin).trans (congrArg _ (Function.iterate_succ_apply' tickRule 2 _)), hphase', hlen',
      hpre', hbb'.trans hbb, havail', hidle', hready'.trans hready⟩

/-- R144: from a counter below the interval, n TICKs count modulo the interval, and passing it raises the request. -/
theorem iterate_tickRule_clear (n : Nat) {s : State} (hlt : s.clrTicks.toNat < s.cfgClrTicks.toNat) :
    (tickRule^[n] s).clearReq = (s.clearReq || decide (s.cfgClrTicks.toNat ≤ s.clrTicks.toNat + n)) ∧
      (tickRule^[n] s).clrTicks.toNat = (s.clrTicks.toNat + n) % s.cfgClrTicks.toNat := by
  induction n generalizing s with
  | zero => simp [hlt, Nat.mod_eq_of_lt hlt]
  | succ n ih =>
    have hcfg : (tickRule s).cfgClrTicks = s.cfgClrTicks := by rw [tickRule_eq]
    rw [Function.iterate_succ_apply]
    by_cases hdue : s.cfgClrTicks.toNat ≤ s.clrTicks.toNat + 1
    · have hclr : (tickRule s).clrTicks = 0 := by rw [tickRule_eq]; exact if_pos hdue
      have hreq : (tickRule s).clearReq = true := by rw [tickRule_eq]; exact if_pos hdue
      obtain ⟨hreq', hclr'⟩ := ih (s := tickRule s) (by simp [hclr, hcfg]; omega)
      rw [hreq', hclr', hreq, hclr, hcfg]
      have hsum : s.clrTicks.toNat + (n + 1) = s.cfgClrTicks.toNat + n := by omega
      simp [hsum]
    · have hclr : (tickRule s).clrTicks.toNat = s.clrTicks.toNat + 1 := by
        rw [tickRule_eq]
        simp only [hdue, if_false]
        exact toNat_succ s.clrTicks (by omega)
      have hreq : (tickRule s).clearReq = s.clearReq := by rw [tickRule_eq]; exact if_neg hdue
      obtain ⟨hreq', hclr'⟩ := ih (s := tickRule s) (by rw [hclr, hcfg]; omega)
      have hsum : s.clrTicks.toNat + 1 + n = s.clrTicks.toNat + (n + 1) := by omega
      rw [hreq', hclr', hreq, hclr, hcfg, hsum]
      exact ⟨rfl, rfl⟩

/-- Settles O39: the count starts at 0 with no request. -/
theorem clearIsRequestedPeriodically : Obligations.ClearIsRequestedPeriodically := by
  unfold Obligations.ClearIsRequestedPeriodically
  intro n s rest ha hclr hreq hcfg hin
  obtain ⟨hreq', hclr'⟩ := iterate_tickRule_clear n (s := s.withInbox rest) (by rw [State.withInbox, hclr]; exact hcfg)
  refine ⟨_, run_ticks n ha hin, iterate_tickRule_inbox n _, ?_, ?_⟩
  · simpa [State.withInbox, hreq, hclr] using hreq'
  · simpa [State.withInbox, hclr] using hclr'

/-- R276: past the timeout `idle_ticks` stays and nothing captured changes. -/
theorem iterate_tickRule_past (n : Nat) {s : State} (h : s.idleTicks = 3) :
    SameCapture s (tickRule^[n] s) ∧ (tickRule^[n] s).idleTicks = 3 := by
  induction n generalizing s with
  | zero => exact ⟨⟨rfl, rfl, rfl, rfl, rfl, rfl⟩, h⟩
  | succ n ih =>
    have hstay : (tickRule s).idleTicks = 3 := by rw [tickRule_idleTicks, h]; rfl
    obtain ⟨hsame, hidle⟩ := ih hstay
    exact ⟨(tickRule_sameCapture (by simp [h])).trans hsame, hidle⟩

/-- Settles O40. -/
theorem silenceTimesOutOnlyOnce : Obligations.SilenceTimesOutOnlyOnce := by
  unfold Obligations.SilenceTimesOutOnlyOnce
  intro n s rest ha hidle hin
  obtain ⟨⟨hphase, hlen, hpre, -, havail, hready⟩, hidle'⟩ :=
    iterate_tickRule_past n (s := s.withInbox rest) hidle
  exact ⟨_, run_ticks n ha hin, iterate_tickRule_inbox n _, hidle', havail, hphase, hlen, hpre, hready⟩

/-! ## EDGE and the TICK that would time out (R272) -/

/-- R113: a transition raises no fault unless a field phase meets a full buffer. -/
theorem exists_phaseStep_ok (dt : BitVec 16) {s : State}
    (hroom : s.phase ∈ [Phase.systemCodeField, Phase.addressField, Phase.commandField] → s.bbLen.toNat < 36) :
    ∃ t, phaseStep dt s = .ok t := by
  have hfield : ∀ limit next, s.bbLen.toNat < 36 → ∃ t, fieldStep dt limit next s = .ok t := by
    intro limit next hlt
    by_cases hc : classify s.tickUs dt (fieldMark s) = .outOfTolerance
    · exact ⟨_, fieldStep_reject limit next hc⟩
    · exact ⟨_, fieldStep_room limit next hc hlt⟩
  unfold phaseStep
  cases hp : s.phase with
  | systemCodeField | addressField | commandField => exact hfield _ _ (hroom (by simp [hp]))
  | _ => exact ⟨_, rfl⟩

theorem step_edge {dt : BitVec 16} {s t : State} {is : List Instr} {rest : List Stimulus} (ha : s.Active)
    (hr : s.frameReady = false) (hin : s.inbox = presented (.edge dt :: is) ++ rest)
    (ht : phaseStep dt (edgeAnswered { s with inbox := presented is ++ rest }) = .ok t) : step s = .next t :=
  (step_presented hin (decode_encode_edge dt)).trans
    (exec_edge_next (s := { s with inbox := presented is ++ rest }) ha hr ht)

/-- R272: the TICK first, so the EDGE finds the block at rest. -/
theorem run_timeout_edge {dt : BitVec 16} {s : State} {rest : List Stimulus} (ha : s.Active)
    (hr : s.frameReady = false) (hidle : s.idleTicks = 2) (hp : s.phase.capturing = true)
    (hin : s.inbox = presented [.tick, .edge dt] ++ rest) :
    ∃ t, Host.Core.run Sys2Proof.core 2 s = .next t ∧ t.phase = .leadingPulse ∧ t.bbLen = 0 ∧ t.preCnt = 0 ∧
      t.avail = false ∧ t.idleTicks = 0 := by
  obtain ⟨hphase, -, -, -, havail, -, hready⟩ :=
    tickRule_timeout (s := s.withInbox (presented [.edge dt] ++ rest)) hidle hp
  have hinbox := iterate_tickRule_inbox 1 (s.withInbox (presented [.edge dt] ++ rest))
  have hactive : (tickRule (s.withInbox (presented [.edge dt] ++ rest))).Active := tickRule_active ha
  have htick := step_tick (is := [.edge dt]) ha hin
  rw [Function.iterate_one] at hinbox
  generalize tickRule (s.withInbox (presented [.edge dt] ++ rest)) = u at *
  have hedge := step_edge (is := []) hactive (hready.trans hr) hinbox (phaseStep_rest dt (.inl hphase))
  refine ⟨startCapture (edgeAnswered (u.withInbox rest)), ?_, rfl, rfl, rfl, havail, rfl⟩
  rw [run_succ 1 s u htick]
  exact run_succ 0 u _ hedge

/-- R272: the EDGE first, so the TICK counts from 0. -/
theorem run_edge_tick {dt : BitVec 16} {s : State} {rest : List Stimulus} (ha : s.Active) (hr : s.frameReady = false)
    (hroom : s.phase ∈ [Phase.systemCodeField, Phase.addressField, Phase.commandField] → s.bbLen.toNat < 36)
    (hin : s.inbox = presented [.edge dt, .tick] ++ rest) :
    ∃ t u, exec (.edge dt) { s with inbox := presented [.tick] ++ rest } = .next u ∧
      Host.Core.run Sys2Proof.core 2 s = .next t ∧ SameCapture u t ∧ t.avail = s.avail ∧ t.idleTicks = 1 := by
  obtain ⟨u, hu⟩ := exists_phaseStep_ok dt (s := edgeAnswered { s with inbox := presented [.tick] ++ rest }) hroom
  have hcapture := phaseStep_captureOnly hu
  rw [CaptureOnly] at hcapture
  have hactive : u.Active := by rw [hcapture]; exact ha
  have hinbox : u.inbox = presented [.tick] ++ rest := by rw [hcapture]; rfl
  have hidle : u.idleTicks = 0 := by rw [hcapture]; rfl
  have havail : u.avail = s.avail := by rw [hcapture]; rfl
  have hsame : SameCapture u (tickRule (u.withInbox rest)) :=
    tickRule_sameCapture (s := u.withInbox rest) (by simp [State.withInbox, hidle])
  have ⟨_, _, _, _, havail', _⟩ := hsame
  refine ⟨tickRule (u.withInbox rest), u, exec_edge_next ha hr hu, ?_, hsame, havail'.trans havail, ?_⟩
  · rw [run_succ 1 s u (step_edge (is := [.tick]) ha hr hin hu)]
    exact run_succ 0 u _ (step_tick (is := []) hactive hinbox)
  · rw [tickRule_idleTicks, State.withInbox, hidle]
    rfl

/-- Settles O41. -/
theorem edgeAgainstTimeoutDependsOnOrder : Obligations.EdgeAgainstTimeoutDependsOnOrder := by
  unfold Obligations.EdgeAgainstTimeoutDependsOnOrder
  intro dt s rest ha hr hidle hp
  refine ⟨run_timeout_edge ha hr hidle hp, fun hroom hin => ?_⟩
  obtain ⟨t, u, hu, hrun, ⟨hphase, hlen, hpre, hbb, -, hready⟩, havail, hidle'⟩ := run_edge_tick ha hr hroom hin
  exact ⟨t, u, hu, hrun, hphase, hlen, hpre, hready, hbb, havail, hidle'⟩

/-! ## The clear service of POLL (R161, R268) -/

theorem takeFrame_keeps_clear (s : State) : (takeFrame s).clearReq = s.clearReq ∧ (takeFrame s).bb = s.bb := by
  unfold takeFrame
  split_ifs <;> exact ⟨rfl, rfl⟩

/-- R161: while a frame waits POLL serves no request, whether it takes the frame or faults. -/
theorem exec_poll_waiting_keeps_clear {s t : State} (hlive : s.Live) (hr : s.frameReady = true)
    (ht : exec .poll s = .next t) : t.clearReq = s.clearReq ∧ t.bb = s.bb := by
  by_cases hlen : s.bbLen = 36
  · rw [exec_poll_next hlive (pollRule_waiting hr hlen)] at ht
    cases ht
    exact takeFrame_keeps_clear s
  · rw [pollFaultsOnMalformedFrame s hlive hr hlen] at ht
    cases ht
    exact ⟨rfl, rfl⟩

/-- Settles O45: with a frame waiting the service is not due; without one it is `clearService_eq`. -/
theorem clearServiceRunsOnlyAtRest : Obligations.ClearServiceRunsOnlyAtRest := by
  unfold Obligations.ClearServiceRunsOnlyAtRest
  intro s t hlive ht
  cases hr : s.frameReady with
  | true =>
    obtain ⟨hreq, hbb⟩ := exec_poll_waiting_keeps_clear hlive hr ht
    exact ⟨by simp, fun _ => ⟨hreq, fun i _ => by rw [hbb]⟩⟩
  | false =>
    rw [pollWithoutFrameReportsTheLevel s hlive hr] at ht
    cases ht
    constructor
    · rintro ⟨hreq, hrest, -⟩
      simp [hreq, hrest]
    · intro hnot
      have hnotDue : ¬(s.clearReq = true ∧ (s.phase = .idle ∨ s.phase = .cooldown)) :=
        fun ⟨hreq, hrest⟩ => hnot ⟨hreq, hrest, rfl⟩
      simp only [hnotDue, if_false, implies_true, and_true]
      split_ifs with hrest
      · exact (Bool.eq_false_iff.mpr fun hreq => hnotDue ⟨hreq, hrest⟩).symm
      · rfl

/-- R162, R168: POLL takes the frame and leaves the request, the entries and the phase. -/
theorem takeFrame_leaves (s : State) :
    (takeFrame s).frameReady = false ∧ (takeFrame s).phase = s.phase ∧ (takeFrame s).fault = s.fault ∧
      (takeFrame s).inbox = s.inbox := by
  unfold takeFrame
  split_ifs <;> exact ⟨rfl, rfl, rfl, rfl⟩

/-- Settles O46: the first POLL takes the frame, so the second finds the request due. -/
theorem pendingClearWaitsForTheNextPoll : Obligations.PendingClearWaitsForTheNextPoll := by
  unfold Obligations.PendingClearWaitsForTheNextPoll
  intro s rest hlive hr hlen hreq hrest hin
  obtain ⟨hr', hphase', hfault', hinbox'⟩ := takeFrame_leaves { s with inbox := presented [.poll] ++ rest }
  obtain ⟨hreq', hbb'⟩ := takeFrame_keeps_clear { s with inbox := presented [.poll] ++ rest }
  generalize hu : takeFrame { s with inbox := presented [.poll] ++ rest } = u at hr' hphase' hfault' hinbox' hreq' hbb'
  have hfirst : step s = .next u :=
    hu ▸ (step_presented (is := [.poll]) hin (by decide)).trans (exec_poll_next hlive (pollRule_waiting hr hlen))
  obtain ⟨t, ht⟩ := exists_exec_next .poll { u with inbox := rest }
  have hsecond : step u = .next t := (step_presented (is := []) hinbox' (by decide)).trans ht
  obtain ⟨hserved, -⟩ := clearServiceRunsOnlyAtRest { u with inbox := rest } t (hfault'.trans hlive) ht
  obtain ⟨hreqServed, -, hzero⟩ := hserved ⟨hreq'.trans hreq, hphase' ▸ hrest, hr'⟩
  refine ⟨⟨u, run_succ 0 s u hfirst, hr', hreq'.trans hreq, hbb'⟩, t, ?_, hreqServed, hzero⟩
  rw [run_succ 1 s u hfirst]
  exact run_succ 0 u t hsecond

end Sys2Proof.Machine

/-! # A whole frame (spec/40_acquisition.md R120)

A capture is followed along the classes of the frame layout (`Follows`): each class of a half-interval is one EDGE, the bits
of the preamble and of a field are inductions over `bitsClasses`, and the frame is the parts one after the other. That no
shorter sequence raises `frame_ready` is a count: each EDGE adds at most one to the edges a capture has seen (`edgesSeen`),
and the final mark is the hundredth. -/

namespace Sys2Proof.Machine

/-! ## Captures followed along the layout -/

/-- The registers that a capture writes: `pre_cnt` and `bb_len` as numbers. -/
structure Capture where
  phase : Phase
  pre : Nat
  len : Nat
  bb : Vector Bool 36
  ready : Bool

/-- `s` after an EDGE that has left this capture, with these words to come. -/
def State.withCapture (s : State) (c : Capture) (inbox : List Stimulus) : State :=
  { s with
    phase := c.phase, preCnt := BitVec.ofNat 6 c.pre, bbLen := BitVec.ofNat 6 c.len, bb := c.bb, frameReady := c.ready
    idleTicks := 0, clrTicks := 0, inbox := inbox, resp := some 0#32 }

/-- On `s`, EDGEs with a `dt` anywhere in the window of each of these classes lead from one capture to the other. -/
def Follows (s : State) (cs : List IntervalClass) (c c' : Capture) : Prop :=
  ∀ (dts : List (BitVec 16)) (rest : List Stimulus), InClasses s.tickUs dts cs →
    Host.Core.run Sys2Proof.core cs.length (s.withCapture c (presented (dts.map .edge) ++ rest)) =
      .next (s.withCapture c' rest)

theorem InClasses.split {tickUs : Nat} {dts : List (BitVec 16)} {cs bs : List IntervalClass}
    (h : InClasses tickUs dts (cs ++ bs)) :
    ∃ ds es, dts = ds ++ es ∧ InClasses tickUs ds cs ∧ InClasses tickUs es bs :=
  ⟨_, _, (List.take_append_drop cs.length dts).symm, List.forall₂_take_append _ _ _ h, List.forall₂_drop_append _ _ _ h⟩

theorem Follows.nil (s : State) (c : Capture) : Follows s [] c c := by
  intro dts rest h
  obtain rfl := List.forall₂_nil_right_iff.mp h
  rfl

theorem Follows.append {s : State} {cs bs : List IntervalClass} {c c' c'' : Capture} (h : Follows s cs c c')
    (h' : Follows s bs c' c'') : Follows s (cs ++ bs) c c'' := by
  intro dts rest hin
  obtain ⟨ds, es, rfl, hds, hes⟩ := hin.split
  rw [List.length_append, List.map_append, presented_append, List.append_assoc, run_add _ _ _ _ (h ds _ hds)]
  exact h' es rest hes

/-- One half-interval: its EDGE takes the transition of the phase. -/
theorem Follows.single {s : State} {cls : IntervalClass} {c c' : Capture} (ha : s.Active) (hr : c.ready = false)
    (h : ∀ dt inbox, cls.admits s.tickUs dt = true →
      phaseStep dt (s.withCapture c inbox) = .ok (s.withCapture c' inbox)) : Follows s [cls] c c' := by
  intro dts rest hin
  obtain ⟨dt, ds, hdt, hds, rfl⟩ := List.forall₂_cons_right_iff.mp hin
  obtain rfl := List.forall₂_nil_right_iff.mp hds
  exact run_succ 0 _ _ (step_edge (is := []) ha hr rfl (h dt rest hdt))

/-! ## The half-intervals -/

theorem admits_short_iff (tickUs : Nat) (dt : BitVec 16) :
    IntervalClass.admits tickUs dt .short = true ↔ 164 ≤ dt.toNat * tickUs ∧ dt.toNat * tickUs ≤ 676 :=
  inWin_short tickUs dt

theorem admits_long_iff (tickUs : Nat) (dt : BitVec 16) :
    IntervalClass.admits tickUs dt .long = true ↔ 1014 ≤ dt.toNat * tickUs ∧ dt.toNat * tickUs ≤ 1526 :=
  inWin_long tickUs dt

/-- The classes of R120 at the half-interval with count `n`: Short, and for a space also Long. -/
def HalfClass (n : Nat) (cls : IntervalClass) : Prop := cls = .short ∨ (cls = .long ∧ n % 2 = 1)

/-- R105, R106: the windows of Short and Long are apart, so such a half-interval is accepted, and is stored as its class
says. -/
theorem classify_of_admits {n tickUs : Nat} {dt : BitVec 16} {cls : IntervalClass} (hcls : HalfClass n cls)
    (hdt : cls.admits tickUs dt = true) :
    classify tickUs dt (n % 2 == 0) ≠ .outOfTolerance ∧
      decide (¬(164 ≤ dt.toNat * tickUs ∧ dt.toNat * tickUs ≤ 676)) = cls.entry := by
  rw [ne_eq, classify_outOfTolerance_iff, not_not]
  obtain rfl | ⟨rfl, hodd⟩ := hcls
  · have hshort := (admits_short_iff tickUs dt).mp hdt
    exact ⟨.inl hshort, by simp [hshort, IntervalClass.entry]⟩
  · have hlong := (admits_long_iff tickUs dt).mp hdt
    have hnotShort : ¬(164 ≤ dt.toNat * tickUs ∧ dt.toNat * tickUs ≤ 676) := by omega
    exact ⟨.inr ⟨hodd, hlong⟩, by simp [hnotShort, IntervalClass.entry]⟩

/-- The counters of a capture are 6 bits wide. -/
theorem toNat_ofNat_six {n : Nat} (h : n < 64) : (BitVec.ofNat 6 n).toNat = n := Nat.mod_eq_of_lt h

section
variable {s : State} (bb : Vector Bool 36)

theorem follows_leadingMark (ha : s.Active) :
    Follows s [.leadingMark] ⟨.leadingPulse, 0, 0, bb, false⟩ ⟨.leadingSpace, 0, 0, bb, false⟩ :=
  .single ha rfl fun dt inbox hdt => by
    rw [phaseStep_leadingPulse dt rfl]
    exact congrArg _ (if_pos ((inWin_leadMark s.tickUs dt).mp hdt))

theorem follows_leadingGap (ha : s.Active) :
    Follows s [.leadingGap] ⟨.leadingSpace, 0, 0, bb, false⟩ ⟨.preamble, 0, 0, bb, false⟩ :=
  .single ha rfl fun dt inbox hdt => by
    rw [phaseStep_leadingSpace dt rfl]
    exact congrArg _ (if_pos ((inWin_leadGap s.tickUs dt).mp hdt))

theorem follows_finalMark (ha : s.Active) :
    Follows s [.finalMark] ⟨.finalPulse, 60, 36, bb, false⟩ ⟨.cooldown, 0, 36, bb, true⟩ :=
  .single ha rfl fun dt inbox hdt => by
    rw [phaseStep_finalPulse dt rfl]
    exact congrArg _ (if_pos ((inWin_final s.tickUs dt).mp hdt))

theorem follows_preamble_half (ha : s.Active) {pre : Nat} (len : Nat) {cls : IntervalClass} (hpre : pre < 60)
    (hcls : HalfClass pre cls) :
    Follows s [cls] ⟨.preamble, pre, len, bb, false⟩
      ⟨milestonePhase (BitVec.ofNat 6 (pre + 1)), pre + 1, len, bb, false⟩ :=
  .single ha rfl fun dt inbox hdt => by
    have hcount := toNat_ofNat_six (n := pre) (by omega)
    have haccept := (classify_of_admits hcls hdt).1
    rw [← hcount] at haccept
    rw [phaseStep_preamble_accept (s := s.withCapture ⟨.preamble, pre, len, bb, false⟩ inbox) rfl
      (by rw [State.withCapture, hcount]; omega) haccept]
    simp only [State.withCapture, BitVec.ofNat_add]
    rfl

/-! ## The bits of the preamble (R112) -/

theorem halfClass_mark {n : Nat} : HalfClass n .short := .inl rfl

/-- The class of the space of a bit. -/
theorem halfClass_space {n : Nat} (hn : n % 2 = 1) (b : Bool) : HalfClass n (if b then .long else .short) := by
  cases b
  · exact .inl rfl
  · exact .inr ⟨rfl, hn⟩

/-- No milestone is odd, so the mark of a bit reaches none. -/
theorem milestonePhase_odd {n : Nat} (hn : n % 2 = 1) (hlt : n < 64) : milestonePhase (BitVec.ofNat 6 n) = .preamble := by
  unfold milestonePhase Config.preH1 Config.preH2 Config.preH3
  rw [toNat_ofNat_six hlt, if_neg (by omega), if_neg (by omega), if_neg (by omega)]

theorem follows_preamble_bit (ha : s.Active) {pre : Nat} (len : Nat) (b : Bool) (heven : pre % 2 = 0)
    (hpre : pre + 2 ≤ 60) :
    Follows s (bitClasses b) ⟨.preamble, pre, len, bb, false⟩
      ⟨milestonePhase (BitVec.ofNat 6 (pre + 2)), pre + 2, len, bb, false⟩ := by
  have hmark := follows_preamble_half bb ha (pre := pre) len (by omega) halfClass_mark
  have hspace := follows_preamble_half bb ha (pre := pre + 1) len (by omega) (halfClass_space (by omega) b)
  rw [milestonePhase_odd (by omega) (by omega)] at hmark
  exact hmark.append hspace

/-- Bits up to the next milestone `m`. -/
theorem follows_preamble_bits (ha : s.Active) {pre m : Nat} (len v n : Nat) (heven : pre % 2 = 0) (hm : m ≤ 60)
    (hbetween : ∀ k, pre < k → k < m → milestonePhase (BitVec.ofNat 6 k) = .preamble) (hn : pre + 2 * n ≤ m)
    (hlt : pre < m) :
    Follows s (bitsClasses v n) ⟨.preamble, pre, len, bb, false⟩
      ⟨if pre + 2 * n = m then milestonePhase (BitVec.ofNat 6 m) else .preamble, pre + 2 * n, len, bb, false⟩ := by
  induction n with
  | zero =>
    rw [if_neg (by omega)]
    exact .nil s _
  | succ n ih =>
    have hbits := ih (by omega)
    rw [if_neg (by omega)] at hbits
    have hbit := follows_preamble_bit bb ha (pre := pre + 2 * n) len (v.testBit n) (by omega) (by omega)
    have hphase : milestonePhase (BitVec.ofNat 6 (pre + 2 * n + 2)) =
        if pre + 2 * (n + 1) = m then milestonePhase (BitVec.ofNat 6 m) else .preamble := by
      split_ifs with hreached
      · exact congrArg _ (congrArg _ hreached)
      · exact hbetween _ (by omega) (by omega)
    rw [hphase] at hbit
    exact hbits.append hbit

/-! ## The bits of a field (R113) -/

/-- The entries after bits 0 to n − 1 of `v` are appended from `base` on: each a mark 0 and the bit. -/
def storeBits (bb : Vector Bool 36) (base v : Nat) : Nat → Vector Bool 36
  | 0 => bb
  | n + 1 => bbWrite (bbWrite (storeBits bb base v n) (base + 2 * n) false) (base + 2 * n + 1) (v.testBit n)

/-- R113 to R115: a field phase, its limit and the phase it leaves to. -/
abbrev FieldRow (p : Phase) (limit : Nat) (next : Phase) : Prop :=
  (p, limit, next) ∈ [(Phase.systemCodeField, 8, Phase.preamble), (Phase.addressField, 20, Phase.commandField),
    (Phase.commandField, 36, Phase.preamble)]

theorem FieldRow.limit_le {p next : Phase} {limit : Nat} (h : FieldRow p limit next) : limit ≤ 36 ∧ limit % 2 = 0 := by
  simp only [FieldRow, List.mem_cons, List.not_mem_nil, or_false, Prod.mk.injEq] at h
  obtain ⟨-, rfl, -⟩ | ⟨-, rfl, -⟩ | ⟨-, rfl, -⟩ := h <;> decide

theorem follows_field_half (ha : s.Active) {p next : Phase} {limit len : Nat} (pre : Nat) {cls : IntervalClass}
    (hrow : FieldRow p limit next) (hlen : len < limit) (hcls : HalfClass len cls) :
    Follows s [cls] ⟨p, pre, len, bb, false⟩
      ⟨if len + 1 = limit then next else p, pre, len + 1, bbWrite bb len cls.entry, false⟩ :=
  .single ha rfl fun dt inbox hdt => by
    have hlimit := hrow.limit_le.1
    have hcount := toNat_ofNat_six (n := len) (by omega)
    obtain ⟨haccept, hentry⟩ :=
      classify_of_admits (tickUs := (s.withCapture ⟨p, pre, len, bb, false⟩ inbox).tickUs) hcls hdt
    rw [← hcount] at haccept
    rw [phaseStep_field (s := s.withCapture ⟨p, pre, len, bb, false⟩ inbox) dt hrow,
      fieldStep_room limit next haccept (by rw [State.withCapture, hcount]; omega), hentry]
    simp only [State.withCapture, BitVec.ofNat_add, hcount]
    rfl

theorem follows_field_bit (ha : s.Active) {p next : Phase} {limit len : Nat} (pre : Nat) (b : Bool)
    (hrow : FieldRow p limit next) (heven : len % 2 = 0) (hlen : len < limit) :
    Follows s (bitClasses b) ⟨p, pre, len, bb, false⟩
      ⟨if len + 2 = limit then next else p, pre, len + 2, bbWrite (bbWrite bb len false) (len + 1) b, false⟩ := by
  have hlimit := hrow.limit_le.2
  have hmark := follows_field_half bb ha pre hrow hlen halfClass_mark
  have hspace := follows_field_half (bbWrite bb len false) ha pre hrow (len := len + 1) (by omega)
    (halfClass_space (by omega) b)
  have hentry : IntervalClass.entry (if b then .long else .short) = b := by cases b <;> rfl
  rw [if_neg (by omega)] at hmark
  rw [hentry] at hspace
  exact hmark.append hspace

theorem follows_field_bits (ha : s.Active) {p next : Phase} {limit base : Nat} (pre v n : Nat)
    (hrow : FieldRow p limit next) (heven : base % 2 = 0) (hbase : base < limit) (hn : base + 2 * n ≤ limit) :
    Follows s (bitsClasses v n) ⟨p, pre, base, bb, false⟩
      ⟨if base + 2 * n = limit then next else p, pre, base + 2 * n, storeBits bb base v n, false⟩ := by
  induction n with
  | zero =>
    rw [if_neg (by omega)]
    exact .nil s _
  | succ n ih =>
    have hbits := ih (by omega)
    rw [if_neg (by omega)] at hbits
    exact hbits.append (follows_field_bit _ ha pre (v.testBit n) hrow (by omega) (by omega))

end

/-! ## The entries of a captured frame -/

theorem bbRead_storeBits_outside (bb : Vector Bool 36) (base v : Nat) {n j : Nat} (hj : j < base ∨ base + 2 * n ≤ j) :
    bbRead (storeBits bb base v n) j = bbRead bb j := by
  induction n with
  | zero => rfl
  | succ n ih =>
    rw [storeBits, bbRead_bbWrite_other _ _ _ _ (by omega), bbRead_bbWrite_other _ _ _ _ (by omega), ih (by omega)]

theorem bbRead_storeBits (bb : Vector Bool 36) (base v : Nat) {n k : Nat} (hn : base + 2 * n ≤ 36) (hk : k < n) :
    bbRead (storeBits bb base v n) (base + 2 * k) = false ∧
      bbRead (storeBits bb base v n) (base + 2 * k + 1) = v.testBit k := by
  induction n with
  | zero => omega
  | succ n ih =>
    rw [storeBits]
    obtain rfl | hlt := Nat.eq_or_lt_of_le (Nat.le_of_lt_succ hk)
    · rw [bbRead_bbWrite_other _ _ _ _ (by omega), bbRead_bbWrite_self _ _ _ (by omega),
        bbRead_bbWrite_self _ _ _ (by omega)]
      exact ⟨rfl, rfl⟩
    · iterate 4 rw [bbRead_bbWrite_other _ _ _ _ (by omega)]
      exact ih (by omega) hlt

/-- The buffer of R53 with the bits of the three fields. -/
def frameBuffer (bb : Vector Bool 36) (sys : BitVec 4) (addr : BitVec 6) (cmd : BitVec 8) : Vector Bool 36 :=
  storeBits (storeBits (storeBits bb 0 sys.toNat 4) 8 addr.toNat 6) 20 cmd.toNat 8

section
variable (bb : Vector Bool 36) (sys : BitVec 4) (addr : BitVec 6) (cmd : BitVec 8)

theorem frameBuffer_sys {j : Nat} (hj : j < 4) :
    bbRead (frameBuffer bb sys addr cmd) (2 * j) = false ∧
      bbRead (frameBuffer bb sys addr cmd) (2 * j + 1) = sys.getLsbD j := by
  rw [frameBuffer]
  iterate 2 rw [bbRead_storeBits_outside _ 20 _ (by omega)]
  iterate 2 rw [bbRead_storeBits_outside _ 8 _ (by omega)]
  have hbits := bbRead_storeBits bb 0 sys.toNat (n := 4) (by decide) hj
  rwa [Nat.zero_add] at hbits

theorem frameBuffer_addr {j : Nat} (hj : j < 6) :
    bbRead (frameBuffer bb sys addr cmd) (8 + 2 * j) = false ∧
      bbRead (frameBuffer bb sys addr cmd) (8 + 2 * j + 1) = addr.getLsbD j := by
  rw [frameBuffer]
  iterate 2 rw [bbRead_storeBits_outside _ 20 _ (by omega)]
  exact bbRead_storeBits _ 8 addr.toNat (by decide) hj

theorem frameBuffer_cmd {j : Nat} (hj : j < 8) :
    bbRead (frameBuffer bb sys addr cmd) (20 + 2 * j) = false ∧
      bbRead (frameBuffer bb sys addr cmd) (20 + 2 * j + 1) = cmd.getLsbD j :=
  bbRead_storeBits _ 20 cmd.toNat (by decide) hj

theorem frameBuffer_mark {j : Nat} (hj : j < 18) : bbRead (frameBuffer bb sys addr cmd) (2 * j) = false := by
  obtain h | h | h : j < 4 ∨ (4 ≤ j ∧ j < 10) ∨ 10 ≤ j := by omega
  · exact (frameBuffer_sys bb sys addr cmd h).1
  · obtain ⟨k, rfl⟩ := Nat.exists_eq_add_of_le h.1
    have hmark := (frameBuffer_addr bb sys addr cmd (j := k) (by omega)).1
    rwa [show 2 * (4 + k) = 8 + 2 * k by omega]
  · obtain ⟨k, rfl⟩ := Nat.exists_eq_add_of_le h
    have hmark := (frameBuffer_cmd bb sys addr cmd (j := k) (by omega)).1
    rwa [show 2 * (10 + k) = 20 + 2 * k by omega]

end

/-! ## The frame (R120) -/

/-- Between two milestones the counter stays in Preamble. -/
theorem milestonePhase_between : ∀ k < 60, k ≠ 40 → k ≠ 44 → milestonePhase (BitVec.ofNat 6 k) = .preamble := by decide

/-- The 99 half-intervals, part by part. -/
theorem follows_frame {s : State} (bb : Vector Bool 36) (pre : BitVec 30) (sys : BitVec 4) (addr : BitVec 6)
    (cmd : BitVec 8) (ha : s.Active) :
    Follows s (frameClasses pre sys addr cmd) ⟨.leadingPulse, 0, 0, bb, false⟩
      ⟨.cooldown, 0, 36, frameBuffer bb sys addr cmd, true⟩ := by
  have hlead := (follows_leadingMark bb ha).append (follows_leadingGap bb ha)
  have hpre := follows_preamble_bits bb ha (pre := 0) (m := 40) 0 pre.toNat 20 rfl (by decide)
    (fun k _ hk => milestonePhase_between k (by omega) (by omega) (by omega)) (by decide) (by decide)
  have hsys := follows_field_bits bb ha (p := .systemCodeField) (next := .preamble) (limit := 8) (base := 0) 40
    sys.toNat 4 (by simp) rfl (by decide) (by decide)
  have hmid := follows_preamble_bits (storeBits bb 0 sys.toNat 4) ha (pre := 40) (m := 44) 8 (pre.toNat >>> 20) 2 rfl
    (by decide) (fun k hlow hk => milestonePhase_between k (by omega) (by omega) (by omega)) (by decide) (by decide)
  have haddr := follows_field_bits (storeBits bb 0 sys.toNat 4) ha (p := .addressField) (next := .commandField)
    (limit := 20) (base := 8) 44 addr.toNat 6 (by simp) rfl (by decide) (by decide)
  have hcmd := follows_field_bits (storeBits (storeBits bb 0 sys.toNat 4) 8 addr.toNat 6) ha (p := .commandField)
    (next := .preamble) (limit := 36) (base := 20) 44 cmd.toNat 8 (by simp) rfl (by decide) (by decide)
  have hlast := follows_preamble_bits (frameBuffer bb sys addr cmd) ha (pre := 44) (m := 60) 36 (pre.toNat >>> 22) 8 rfl
    (by decide) (fun k hlow hk => milestonePhase_between k (by omega) (by omega) (by omega)) (by decide) (by decide)
  exact ((((((hlead.append hpre).append hsys).append hmid).append haddr).append hcmd).append hlast).append
    (follows_finalMark _ ha)

/-- R109: the edge that starts the capture. -/
theorem step_start {s : State} {e0 : BitVec 16} {is : List Instr} {rest : List Stimulus} (ha : s.Active)
    (hr : s.frameReady = false) (hp : s.phase = .idle ∨ s.phase = .cooldown)
    (hin : s.inbox = presented (.edge e0 :: is) ++ rest) :
    step s = .next (s.withCapture ⟨.leadingPulse, 0, 0, s.bb, false⟩ (presented is ++ rest)) := by
  rw [step_edge ha hr hin (phaseStep_rest e0 hp), State.withCapture, ← hr]
  rfl

theorem run_frame {s : State} {e0 : BitVec 16} {dts : List (BitVec 16)} {pre : BitVec 30} {sys : BitVec 4}
    {addr : BitVec 6} {cmd : BitVec 8} {rest : List Stimulus} (ha : s.Active) (hr : s.frameReady = false)
    (hp : s.phase = .idle ∨ s.phase = .cooldown) (hdts : InClasses s.tickUs dts (frameClasses pre sys addr cmd))
    (hin : s.inbox = presented ((e0 :: dts).map .edge) ++ rest) :
    Host.Core.run Sys2Proof.core 100 s =
      .next (s.withCapture ⟨.cooldown, 0, 36, frameBuffer s.bb sys addr cmd, true⟩ rest) := by
  have hrun := follows_frame s.bb pre sys addr cmd ha dts rest hdts
  rw [length_frameClasses] at hrun
  rw [run_succ 99 s _ (step_start (is := dts.map .edge) ha hr hp hin), hrun]

/-- Settles O33. -/
theorem intactFrameIsCaptured : Obligations.IntactFrameIsCaptured := by
  unfold Obligations.IntactFrameIsCaptured
  intro e0 dts pre sys addr cmd s rest ha hr hp hdts hin
  exact ⟨frameBuffer s.bb sys addr cmd, run_frame ha hr hp hdts hin, fun j => frameBuffer_mark s.bb sys addr cmd,
    fun j hj => (frameBuffer_sys s.bb sys addr cmd hj).2, fun j hj => (frameBuffer_addr s.bb sys addr cmd hj).2,
    fun j hj => (frameBuffer_cmd s.bb sys addr cmd hj).2⟩

/-! ## The frame decoded (R163) -/

theorem fieldValue_eq_mod {bb : Vector Bool 36} {base v n : Nat}
    (h : ∀ j < n, bbRead bb (base + 2 * j + 1) = v.testBit j) : fieldValue bb base n = v % 2 ^ n := by
  induction n with
  | zero => rw [fieldValue, pow_zero, Nat.mod_one]
  | succ n ih =>
    rw [fieldValue, ih fun j hj => h j (by omega), h n (by omega), Nat.mod_pow_succ, Nat.toNat_testBit, Nat.mul_comm]

/-- A field of the captured frame decodes to its bits. -/
theorem ofNat_fieldValue_eq_setWidth {bb : Vector Bool 36} {base n : Nat} {x : BitVec n} (hn : n ≤ 8)
    (h : ∀ j < n, bbRead bb (base + 2 * j + 1) = x.getLsbD j) : BitVec.ofNat 8 (fieldValue bb base n) = x.setWidth 8 := by
  refine ofNat_fieldValue_eq ?_
  rw [fieldValue_eq_mod h, Nat.mod_eq_of_lt x.isLt, BitVec.toNat_setWidth_of_le hn]

theorem decoded_frameBuffer (bb : Vector Bool 36) (sys : BitVec 4) (addr : BitVec 6) (cmd : BitVec 8) :
    decodedSys (frameBuffer bb sys addr cmd) = sys.setWidth 8 ∧
      decodedAddr (frameBuffer bb sys addr cmd) = addr.setWidth 8 ∧ decodedCmd (frameBuffer bb sys addr cmd) = cmd := by
  refine ⟨ofNat_fieldValue_eq_setWidth (base := 0) (n := 4) (by decide) fun j hj => ?_,
    ofNat_fieldValue_eq_setWidth (base := 8) (n := 6) (by decide) fun j hj => (frameBuffer_addr bb sys addr cmd hj).2,
    (ofNat_fieldValue_eq_setWidth (base := 20) (n := 8) le_rfl fun j hj =>
      (frameBuffer_cmd bb sys addr cmd hj).2).trans (BitVec.setWidth_eq cmd)⟩
  rw [Nat.zero_add]
  exact (frameBuffer_sys bb sys addr cmd hj).2

/-- A whole frame captured from `s` and waiting. -/
abbrev State.withFrame (s : State) (sys : BitVec 4) (addr : BitVec 6) (cmd : BitVec 8) (inbox : List Stimulus) : State :=
  s.withCapture ⟨.cooldown, 0, 36, frameBuffer s.bb sys addr cmd, true⟩ inbox

/-- R164 at a captured frame: the pair is the payload's, the level that of the call before. -/
theorem repeatSuppressed_withFrame_iff (s : State) (sys : BitVec 4) (addr : BitVec 6) (cmd : BitVec 8)
    (inbox : List Stimulus) :
    repeatSuppressed (s.withFrame sys addr cmd inbox) = true ↔
      s.avail = true ∧ sys.setWidth 8 = s.resSys ∧ cmd = s.resCmd ∧
        ({ valid := true, key := sys.setWidth 8 ++ cmd } : Slot) ∈ s.reg := by
  obtain ⟨hsys, -, hcmd⟩ := decoded_frameBuffer s.bb sys addr cmd
  rw [repeatSuppressed_iff, show (s.withFrame sys addr cmd inbox).bb = frameBuffer s.bb sys addr cmd from rfl, hsys, hcmd]
  exact ⟨fun ⟨hs, hc, hmem, havail⟩ => ⟨havail, hs, hc, hmem⟩, fun ⟨havail, hs, hc, hmem⟩ => ⟨hs, hc, hmem, havail⟩⟩

/-- Settles O34: the captured frame meets POLL, which suppresses it or reports it. -/
theorem intactFrameIsReportedAndDecoded : Obligations.IntactFrameIsReportedAndDecoded := by
  unfold Obligations.IntactFrameIsReportedAndDecoded
  intro e0 dts pre sys addr cmd s rest ha hr hp hdts hin
  obtain ⟨hsys, haddr, hcmd⟩ := decoded_frameBuffer s.bb sys addr cmd
  rw [presented_append, List.append_assoc] at hin
  have hpoll : step (s.withFrame sys addr cmd (presented [.poll] ++ rest)) =
      .next (takeFrame (s.withFrame sys addr cmd rest)) :=
    (step_presented (is := []) rfl (by decide)).trans (exec_poll_next ha.1 (pollRule_waiting rfl rfl))
  have hrun : Host.Core.run Sys2Proof.core 101 s = .next (takeFrame (s.withFrame sys addr cmd rest)) :=
    (run_add 100 1 s _ (run_frame ha hr hp hdts hin)).trans (run_succ 0 _ _ hpoll)
  have hsup := repeatSuppressed_withFrame_iff s sys addr cmd rest
  split_ifs with hrepeat
  · rw [takeFrame_suppressed (hsup.mpr hrepeat)] at hrun
    obtain ⟨havail, -⟩ := hrepeat
    exact ⟨_, hrun, havail, rfl, rfl, rfl, rfl, rfl, rfl, rfl, rfl⟩
  · rw [takeFrame_replaced (mt hsup.mp hrepeat)] at hrun
    exact ⟨_, hrun, rfl, rfl, rfl, rfl, rfl, rfl, hsys, haddr, hcmd⟩

/-! ## Fewer edges than a frame -/

/-- The edges a capture has seen since it began, by its phase and counters. -/
def Phase.edgesSeen (p : Phase) (pre len : Nat) : Nat :=
  match p with
  | .idle | .cooldown => 0
  | .leadingPulse => 1
  | .leadingSpace => 2
  | .preamble | .systemCodeField | .addressField | .commandField | .finalPulse => 3 + pre + len

/-- `Phase.edgesSeen` at the registers of a state. -/
def State.edgesSeen (s : State) : Nat := s.phase.edgesSeen s.preCnt.toNat s.bbLen.toNat

theorem milestonePhase_edgesSeen (n : BitVec 6) (pre len : Nat) :
    (milestonePhase n).edgesSeen pre len = 3 + pre + len := by
  unfold milestonePhase
  split_ifs <;> rfl

/-- A transition that counts at most one edge and raises no `frame_ready`. -/
def CountsOne (s t : State) : Prop := t.frameReady = false ∧ t.edgesSeen ≤ s.edgesSeen + 1

theorem countsOne_restartAt {s : State} (hr : s.frameReady = false) {p : Phase} (hp : p = .idle ∨ p = .leadingPulse) :
    CountsOne s (restartAt p s) := by
  refine ⟨hr, ?_⟩
  obtain rfl | rfl := hp
  · exact Nat.zero_le _
  · exact Nat.le_add_left 1 _

theorem fieldStep_countsOne {dt : BitVec 16} {limit : Nat} {p next : Phase} {s t : State}
    (hrow : FieldRow p limit next) (hp : s.phase = p) (hr : s.frameReady = false)
    (ht : fieldStep dt limit next s = .ok t) : CountsOne s t := by
  by_cases hc : classify s.tickUs dt (fieldMark s) = .outOfTolerance
  · rw [fieldStep_reject limit next hc] at ht
    cases ht
    exact countsOne_restartAt hr (.inl rfl)
  · obtain hroom | hfull := Nat.lt_or_ge s.bbLen.toNat 36
    · rw [fieldStep_room limit next hc hroom] at ht
      cases ht
      have hlen : (s.bbLen + 1).toNat = s.bbLen.toNat + 1 := toNat_succ s.bbLen (by omega)
      have hseen : ∀ pre len, p.edgesSeen pre len = 3 + pre + len ∧ next.edgesSeen pre len = 3 + pre + len := by
        simp only [FieldRow, List.mem_cons, List.not_mem_nil, or_false, Prod.mk.injEq] at hrow
        obtain ⟨rfl, -, rfl⟩ | ⟨rfl, -, rfl⟩ | ⟨rfl, -, rfl⟩ := hrow <;> exact fun _ _ => ⟨rfl, rfl⟩
      refine ⟨hr, ?_⟩
      simp only [State.edgesSeen, hlen, hp]
      split_ifs <;> simp only [hseen] <;> omega
    · rw [fieldStep_full limit next hc hfull] at ht
      cases ht

/-- R110 to R116 by the counts of R38: every phase but FinalPulse counts one edge, and FinalPulse has seen 99. -/
theorem phaseStep_countsOne {dt : BitVec 16} {s t : State} (h : s.Inv) (hr : s.frameReady = false)
    (hlt : s.edgesSeen < 99) (ht : phaseStep dt s = .ok t) : CountsOne s t := by
  cases hp : s.phase with
  | idle | cooldown =>
    rw [phaseStep_rest dt (by simp [hp])] at ht
    cases ht
    exact countsOne_restartAt hr (.inr rfl)
  | leadingPulse =>
    rw [phaseStep_leadingPulse dt hp] at ht
    cases ht
    split_ifs
    · exact ⟨hr, by simp [State.edgesSeen, Phase.edgesSeen, hp]⟩
    · exact countsOne_restartAt hr (.inl rfl)
  | leadingSpace =>
    obtain ⟨-, -, hlen⟩ := h.countsAt hp
    rw [phaseStep_leadingSpace dt hp] at ht
    cases ht
    split_ifs
    · exact ⟨hr, by simp [State.edgesSeen, Phase.edgesSeen, hp, hlen]⟩
    · exact countsOne_restartAt hr (.inl rfl)
  | preamble =>
    obtain ⟨-, hcounts⟩ := h.countsAt hp
    by_cases hc : classify s.tickUs dt (preambleMark s) = .outOfTolerance
    · rw [phaseStep_preamble_reject hp hc] at ht
      cases ht
      exact countsOne_restartAt hr (.inl rfl)
    · rw [phaseStep_preamble_accept hp (by omega) hc] at ht
      cases ht
      have hsucc : (s.preCnt + 1).toNat = s.preCnt.toNat + 1 := toNat_succ s.preCnt (by omega)
      refine ⟨hr, ?_⟩
      simp only [State.edgesSeen, milestonePhase_edgesSeen, hp, hsucc]
      simp only [Phase.edgesSeen]
      omega
  | systemCodeField =>
    have hrow : FieldRow .systemCodeField 8 .preamble := by simp
    exact fieldStep_countsOne hrow hp hr ((phaseStep_field dt (by rw [hp]; exact hrow)).symm.trans ht)
  | addressField =>
    have hrow : FieldRow .addressField 20 .commandField := by simp
    exact fieldStep_countsOne hrow hp hr ((phaseStep_field dt (by rw [hp]; exact hrow)).symm.trans ht)
  | commandField =>
    have hrow : FieldRow .commandField 36 .preamble := by simp
    exact fieldStep_countsOne hrow hp hr ((phaseStep_field dt (by rw [hp]; exact hrow)).symm.trans ht)
  | finalPulse =>
    obtain ⟨-, hpre, hlen⟩ := h.countsAt hp
    simp [State.edgesSeen, Phase.edgesSeen, hp, hpre, hlen] at hlt

/-- An EDGE before the hundredth raises no `frame_ready`; before INIT it is refused. -/
theorem exec_edge_countsOne (dt : BitVec 16) {s : State} (h : s.Inv) (hr : s.frameReady = false)
    (hlt : s.edgesSeen < 99) : ∃ t, exec (.edge dt) s = .next t ∧ t.Inv ∧ t.inbox = s.inbox ∧ CountsOne s t := by
  obtain ⟨t, ht⟩ := exists_exec_next (.edge dt) s
  have hinbox : t.inbox = s.inbox := by rw [exec_writesOnly ht]
  refine ⟨t, ht, exec_keeps_inv _ h ht, hinbox, ?_⟩
  cases hconf : s.configured with
  | true =>
    have hanswered : (edgeAnswered s).Inv := by
      rw [← respond_resetWatchdog]
      exact (resetWatchdog_inv h).respond .ok 0
    obtain ⟨u, hu, -⟩ := phaseStep_inv dt hanswered hr
    rw [exec_edge_next ⟨h.live, hconf⟩ hr hu] at ht
    cases ht
    have hone := phaseStep_countsOne (s := edgeAnswered s) hanswered hr hlt hu
    exact hone
  | false =>
    rw [(eventsBeforeInitAreRefused dt s h.live hconf).1] at ht
    cases ht
    exact ⟨hr, Nat.le_succ _⟩

/-- As long as the edges of the capture and those to come are fewer than 100, none raises `frame_ready`. -/
theorem run_edges_not_ready {dts : List (BitVec 16)} {s : State} {rest : List Stimulus} (h : s.Inv)
    (hr : s.frameReady = false) (hfew : s.edgesSeen + dts.length < 100)
    (hin : s.inbox = presented (dts.map .edge) ++ rest) :
    ∃ t : State, Host.Core.run Sys2Proof.core dts.length s = .next t ∧ t.frameReady = false ∧ t.inbox = rest := by
  induction dts generalizing s with
  | nil => exact ⟨s, rfl, hr, hin⟩
  | cons dt dts ih =>
    rw [List.length_cons] at hfew ⊢
    have hinv : (s.withInbox (presented (dts.map .edge) ++ rest)).Inv := h.interface _ s.resp
    have hlt : (s.withInbox (presented (dts.map .edge) ++ rest)).edgesSeen < 99 := by
      change s.edgesSeen < 99
      omega
    obtain ⟨u, hu, huinv, huinbox, hur, hseen⟩ := exec_edge_countsOne dt hinv hr hlt
    have hstep : step s = .next u := (step_presented hin (decode_encode_edge dt)).trans hu
    rw [run_succ _ s u hstep]
    refine ih huinv hur ?_ huinbox
    change u.edgesSeen ≤ s.edgesSeen + 1 at hseen
    omega

/-- Settles O35: at rest no edge of a frame has been seen. -/
theorem frameNeedsAHundredEdges : Obligations.FrameNeedsAHundredEdges := by
  unfold Obligations.FrameNeedsAHundredEdges
  intro dts s rest h hr hp hlen hin
  have hseen : s.edgesSeen = 0 := by
    rw [State.edgesSeen]
    obtain hp | hp := hp <;> rw [hp] <;> rfl
  exact run_edges_not_ready h hr (by omega) hin

end Sys2Proof.Machine
